-- ==== Sys2Proof/Word.lean ====
section
/-! DEFINITION. The word types of HUFFCORE (spec/00_scope.md R8, R9): all values are unsigned. -/

namespace Sys2Proof

/-- A symbol, a source byte or a sink byte: `SYM_W` = 8 bits (R8). -/
abbrev Byte := BitVec 8

/-- A count, a length or a wire field: `CNT_W` = `LEN_W` = 64 bits (R8). -/
abbrev Word64 := BitVec 64

/-- A node weight: `WT_W` = 72 bits (R9). -/
abbrev Weight := BitVec 72

/-- An arena index: `IDX_W` = 9 bits (R9). -/
abbrev NodeIdx := BitVec 9

end Sys2Proof
end

