-- ==== Sys2Proof/Syntax.lean ====
section
/-! DEFINITION. The operations of HUFFCORE: one constructor per row of spec/opcode_table.json, in the table's order. No row has an
operand field (spec/30_encoding.md R91, R92, R97). -/

namespace Sys2Proof

/-- The two operation encodings (R90): a command is the value written to register 0, a phase operation is the value of
PHASE. (The third format, CONTAINER, is data.) -/
inductive Format where
  | cmd
  | phase
deriving DecidableEq, Repr

/-- The operations (R91, R92). -/
inductive Instr where
  | nop
  | compress
  | decompress
  | cmdReserved3
  | idle
  | hist
  | leaves
  | merge
  | codes
  | pack
  | flush
  | emit
  | dhdr
  | drecs
  | dbits
  | decode
  | done
  | error
  | phaseUnreachable14
  | phaseUnreachable15
deriving DecidableEq, Repr

end Sys2Proof
end

