-- ==== Sys2Proof/WellFormed.lean ====
section
/-! DEFINITION. Which operations the spec gives a meaning (spec/30_encoding.md R98). -/

namespace Sys2Proof

/-- Not one of the two PHASE codes that "no rule writes" and to which "a model need give no meaning" (R98). No operation has
operands, so there is nothing else to check. -/
def Instr.wellFormed : Instr → Bool
  | .phaseUnreachable14 => false
  | .phaseUnreachable15 => false
  | .nop | .compress | .decompress | .cmdReserved3 | .idle | .hist | .leaves | .merge | .codes | .pack | .flush | .emit
  | .dhdr | .drecs | .dbits | .decode | .done | .error => true

end Sys2Proof
end

