-- ==== Sys2Proof/Decode.lean ====
section
/-! DEFINITION. The decoder of the two operation encodings, total on any bytes and rejecting by name, and after it the encoder, from
the tables of spec/30_encoding.md R91 and R92. -/

namespace Sys2Proof

/-- Format `CMD`: the field `op`, bits [1:0] (R91). -/
def decodeCmd (op : BitVec 2) : Instr :=
  match op.toNat with
  | 0 => .nop
  | 1 => .compress
  | 2 => .decompress
  | _ => .cmdReserved3

/-- The field `op` of a value written to register 0; bits above bit 1 are ignored (R91, R98). -/
def cmdField (v : Nat) : BitVec 2 := BitVec.ofNat 2 v

/-- Format `PHASE`: the field `ph`, the four bits of PHASE (R92). -/
def decodePhase (ph : BitVec 4) : Instr :=
  match ph.toNat with
  | 0 => .idle
  | 1 => .hist
  | 2 => .leaves
  | 3 => .merge
  | 4 => .codes
  | 5 => .pack
  | 6 => .flush
  | 7 => .emit
  | 8 => .dhdr
  | 9 => .drecs
  | 10 => .dbits
  | 11 => .decode
  | 12 => .done
  | 13 => .error
  | 14 => .phaseUnreachable14
  | _ => .phaseUnreachable15

/-- Why bytes decode to no operation. -/
inductive Reject where
  /-- There is no byte to read. -/
  | noByte
  /-- The byte does not fit the four bits of PHASE (R92). -/
  | notFourBits
deriving DecidableEq, Repr

/-- What the decoder answers: an operation and the bytes after it, or a rejection by name. -/
inductive Decoded where
  | instr (i : Instr) (rest : List Byte)
  | rejected (why : Reject)
deriving DecidableEq, Repr

/-- The decoder on bytes, one byte an operation (DESIGN CHOICE, log 9: neither format has a byte layout in the spec; the word is laid in
the low bits of one byte). -/
def decode (f : Format) : List Byte → Decoded
  | [] => .rejected .noByte
  | b :: rest =>
    match f with
    | .cmd => .instr (decodeCmd (cmdField b.toNat)) rest
    | .phase => if b.toNat < 16 then .instr (decodePhase (BitVec.ofNat 4 b.toNat)) rest else .rejected .notFourBits

/-- The format of an operation (R91, R92). -/
def formatOf : Instr → Format
  | .nop | .compress | .decompress | .cmdReserved3 => .cmd
  | .idle | .hist | .leaves | .merge | .codes | .pack | .flush | .emit | .dhdr | .drecs | .dbits | .decode | .done | .error
  | .phaseUnreachable14 | .phaseUnreachable15 => .phase

/-- The value of `op` or `ph` that selects an operation (R91, R92). -/
def codeOf : Instr → Nat
  | .nop => 0
  | .compress => 1
  | .decompress => 2
  | .cmdReserved3 => 3
  | .idle => 0
  | .hist => 1
  | .leaves => 2
  | .merge => 3
  | .codes => 4
  | .pack => 5
  | .flush => 6
  | .emit => 7
  | .dhdr => 8
  | .drecs => 9
  | .dbits => 10
  | .decode => 11
  | .done => 12
  | .error => 13
  | .phaseUnreachable14 => 14
  | .phaseUnreachable15 => 15

/-- The value of PHASE that selects a phase operation (R92). -/
def phaseCode (i : Instr) : BitVec 4 := BitVec.ofNat 4 (codeOf i)

/-- The encoder: the one byte of an operation (log 9). -/
def encode (i : Instr) : List Byte := [BitVec.ofNat 8 (codeOf i)]

/-- The format a table word is read in. The words of the two formats overlap (R91, R92 both begin at 0), and only their width tells
them apart: at most 2 bits is `CMD`, 3 or 4 bits is `PHASE`. DESIGN CHOICE (log 9): a width rounded up to whole bytes tells nothing, and then the words 0 to 3,
which both formats have, are read as `CMD` and every other word as `PHASE`. -/
def tableFormat (nbits w : Nat) : Format :=
  if nbits ≤ 2 then .cmd else if nbits ≤ 4 then .phase else if w < 4 then .cmd else .phase

/-- The operation the decoder reads from a word of spec/opcode_table.json. -/
def decodeTableWord (nbits w : Nat) : Option Instr :=
  if w < 256 then
    match decode (tableFormat nbits w) [BitVec.ofNat 8 w] with
    | .instr i _ => some i
    | .rejected _ => none
  else none

end Sys2Proof
end

