-- ==== Sys2Proof/Config.lean ====
section
/-! DEFINITION. What an implementation of HUFFCORE fixes (spec/00_scope.md R9, spec/10_state.md R45), and the one free
value of the model. -/

namespace Sys2Proof

/-- The open parameters a model takes as arguments (R9). They are carried in `State.cfg`, so that every statement about all
states holds for all of them; no step writes them. `REG_BASE` and `BUS_PROTOCOL` are open too and no rule depends on
them (spec/20_memory.md R73). -/
structure Config where
  /-- `SRC_CAP`, the largest source length a command accepts: `0 <= SRC_CAP <= 2^56 - 1` (D6). -/
  srcCap : BitVec 56
  /-- `EMIT_PAD_BYTE`, whether EMIT writes the spurious pad byte (spec/45_container_codec.md R213, D11). -/
  emitPadByte : Bool
deriving DecidableEq, Repr

/-- The configuration `State.reset` carries. `EMIT_PAD_BYTE = true` is the default the spec names (R9). DESIGN CHOICE, unsafe (log 1): the spec leaves `SRC_CAP` open and
the largest legal value is taken. -/
def Config.default : Config := { srcCap := BitVec.allOnes 56, emitPadByte := true }

/-- `PBUF_CAP = floor(255*SRC_CAP/8) + 1` (R9, D28). -/
def Config.pbufCap (c : Config) : Nat := 255 * c.srcCap.toNat / 8 + 1

/-- FREE VALUE (log 6): the bytes a command that failed, or was abandoned by reset, leaves at the end of the sink, for
failure number `draw`. spec/60_exceptions.md R257 and spec/93_implementation_defined.md U2 make them an arbitrary byte sequence; nothing here
constrains them. -/
opaque Config.sinkAfterFailure (draw : Nat) : List Byte

end Sys2Proof
end

