-- ==== Sys2Proof/Machine/State.lean ====
section
/-! DEFINITION. The state of HUFFCORE as plain data (spec/10_state.md), its reset value, and the reasons a step can stop. -/

namespace Sys2Proof.Machine

/-- Which command runs: the register MODE, 0 for COMPRESS and 1 for DECOMPRESS (R33). -/
inductive Mode where
  | compress
  | decompress
deriving DecidableEq, Repr

/-- One entry of the node arena (R35). -/
structure Node where
  /-- `LEAF`: true for a leaf, false for an internal node. -/
  leaf : Bool
  /-- `SYM`: the byte value of a leaf. -/
  sym : Byte
  /-- `WT`: the weight, 72 bits. -/
  wt : Weight
  /-- `ZERO`: the zero-branch child of an internal node. -/
  zero : NodeIdx
  /-- `ONE`: the one-branch child of an internal node. -/
  one : NodeIdx
deriving DecidableEq, Repr

/-- An arena entry with all bits 0. -/
def Node.dead : Node := { leaf := false, sym := 0, wt := 0, zero := 0, one := 0 }

/-- One entry of the code table (R37): the first symbol of the code is bit `LEN-1` of `BITS`, the last is bit 0. -/
structure CodeEntry where
  valid : Bool
  len : BitVec 8
  bits : BitVec 255
deriving DecidableEq, Repr

/-- One entry of the traversal stack (R38). -/
structure StkEntry where
  node : NodeIdx
  depth : BitVec 8
  bit : Bool
deriving DecidableEq, Repr

/-- Bytes by address, as a list of (address, byte) pairs; the canonical form is `Memory.wf`. -/
abbrev Memory := List Host.Cell

/-- What an unlisted address of a `Memory` reads as (DESIGN CHOICE, unsafe, log 5). -/
def Memory.unlisted : Byte := 0

/-- The canonical form: addresses strictly rising, no entry equal to what an unlisted address reads as. -/
abbrev Memory.wf (m : Memory) : Prop := m.Pairwise (fun c d => c.1 < d.1) ∧ ∀ c ∈ m, c.2 ≠ Memory.unlisted

/-- A move of the host (spec/70_reset_and_hazards.md R285; spec/30_encoding.md R100). The model's own form of the host's events (log 2). -/
inductive HostMove where
  /-- Write the value `v` to host register `n` (R21); register 0 is CMD, so this presents a command (R22). -/
  | regWrite (n : Fin 8) (v : Nat)
  /-- Read host register `n` (R21). -/
  | regRead (n : Fin 8)
  /-- Place `bytes` in the source window from offset `off` on (R282 (a)). -/
  | placeSource (off : Nat) (bytes : List Byte)
  /-- Drive `SRC_OK`: its next samples are `next`, and `level` after them (R30, D32). -/
  | driveSrcOk (next : List Bool) (level : Bool)
  /-- Drive `SNK_OK`: its next samples are `next`, and `level` after them (R30, D32). -/
  | driveSnkOk (next : List Bool) (level : Bool)
  /-- Take the `n` oldest bytes out of the sink (R285, R290). -/
  | drainSink (n : Nat)
  /-- Assert and release `RST` (R280). -/
  | rst
  /-- Make no move: the engine takes its next phase operation. -/
  | engine
  /-- Read STATUS until `ST != BUSY` (R100 `wait`). -/
  | wait
deriving DecidableEq, Repr

/-- The machine. Widths are the spec's; the docstring of a field gives its name and rule in spec/10_state.md. -/
structure State where
  /-- The open parameters (R45): configuration, never written. -/
  cfg : Config
  /-- ERR, register 2 (R24). -/
  err : BitVec 2
  /-- SUBERR, register 3 (R25). -/
  subErr : BitVec 4
  /-- SRC_LEN, register 4 (R26). -/
  srcLen : Word64
  /-- COUNT_IN, register 5 (R27). -/
  countIn : Word64
  /-- COUNT_OUT, register 6 (R28). -/
  countOut : Word64
  /-- FT[0..255] (R31). -/
  ft : Vector Word64 256
  /-- NCHAR (R32). -/
  nchar : BitVec 9
  /-- PHASE (R33); its values are spec/30_encoding.md R92's. -/
  phase : BitVec 4
  /-- MODE (R33). -/
  mode : Mode
  /-- IDX: index of the next source byte of HIST and PACK (R34). -/
  idx : Word64
  /-- SYMI: next byte value of LEAVES and EMIT (R34). -/
  symi : BitVec 9
  /-- RECI: number of records read by DRECS (R34). -/
  reci : BitVec 9
  /-- PREV: byte value of the previous record plus 1, or 0 (R34). -/
  prev : BitVec 9
  /-- EMI: index of the next pack-buffer byte to emit (R34). -/
  emi : Word64
  /-- CUR: the bit cursor of DECODE (R34). -/
  cur : Word64
  /-- NODEP: current node of the descent of DECODE (R34). -/
  nodep : NodeIdx
  /-- OUTCNT: bytes appended by this command (R34). -/
  outcnt : Word64
  /-- NODE[0..510] (R35). -/
  node : Vector Node 511
  /-- NNODE: number of arena entries allocated (R36). -/
  nnode : BitVec 9
  /-- ACTIVE[0..510] (R36). -/
  active : Vector Bool 511
  /-- NACT: number of active nodes (R36). -/
  nact : BitVec 9
  /-- ROOT (R36). -/
  root : NodeIdx
  /-- ROOT_VALID (R36). -/
  rootValid : Bool
  /-- CT[0..255] (R37). -/
  ct : Vector CodeEntry 256
  /-- STK[0..255] (R38). -/
  stk : Vector StkEntry 256
  /-- SP (R38). -/
  sp : BitVec 9
  /-- PATH, as 255 one-bit cells (R38, spec/42_code_table.md R163). -/
  path : Vector Bool 255
  /-- ACC: the shift register of the packer (R39). -/
  acc : BitVec 8
  /-- NB: number of bits collected in ACC (R39). -/
  nb : BitVec 3
  /-- BITCNT (R39). -/
  bitcnt : Word64
  /-- PBUF: the pack buffer, an unbounded sequence of bytes (R39, spec/43_bit_packer.md R182). -/
  pbuf : Memory
  /-- PLEN: number of complete bytes written to PBUF (R39). -/
  plen : Word64
  /-- PAYLEN (R40). -/
  paylen : Word64
  /-- POFF (R40). -/
  poff : Word64
  /-- SRC: the source window, host-owned (spec/20_memory.md R61). -/
  src : Memory
  /-- SNK: the bytes in the sink, oldest first (spec/20_memory.md R62). -/
  snk : List Byte
  /-- The level of the input SRC_OK after the samples of `srcOkNext` (R30). -/
  srcOk : Bool
  /-- The next samples of SRC_OK, first one first (R30: "a draw"; log 3). -/
  srcOkNext : List Bool
  /-- The level of the input SNK_OK after the samples of `snkOkNext` (R30). -/
  snkOk : Bool
  /-- The next samples of SNK_OK, first one first (R30: "a draw"; log 3). -/
  snkOkNext : List Bool
  /-- The host's coming moves (the model's own field, log 2). -/
  host : List HostMove
  /-- What the host's last register read returned (the model's own field, log 2). -/
  rdata : Word64
  /-- How many free values have been used (the model's own field, log 6). -/
  draws : Nat
deriving DecidableEq, Repr

/-- Reasons the machine stops with a fault. -/
inductive Fault where
  /-- `PACK_NO_CODE`: PACK meets a source byte with no code (spec/43_bit_packer.md R183, spec/93_implementation_defined.md U6). Raised by PACK, only when
  the source differs between HIST and PACK. Safe: nothing can be proved of the run after it. -/
  | packNoCode
  /-- PHASE holds 14 or 15, for which there is no transition (spec/30_encoding.md R98, U7). Raised by the two unreachable phase
  operations. Safe. -/
  | unreachablePhase (ph : BitVec 4)
  /-- RemoveMin, or the choice of the root, finds no active node although NACT says there is one: the precondition of
  spec/41_tree_builder.md R143 is broken. Raised by MERGE, in states no run reaches (log 8). Safe. -/
  | noActiveNode
  /-- A walk of the arena that never ends, or that overflows STK: the arena holds no tree. Raised by CODES and DECODE, in
  states no run reaches (log 8). Safe. -/
  | treeNotWellFormed
  /-- The host places a byte at an offset of 2^64 or more, which the 64-bit window does not have (spec/20_memory.md R61). Raised by the
  host move `placeSource`. Safe. -/
  | noSuchSourceByte
deriving DecidableEq, Repr

/-- Reasons a step is refused. -/
inductive Refusal where
  /-- The instruction has no meaning yet. Raised by the dispatch alone. Safe. -/
  | notModelled (mnemonic : String)
  /-- The host writes SRC_LEN or a byte of the source window while `ST = BUSY` (spec/93_implementation_defined.md U9: a model "gives the
  host no such move"). Raised by the host moves `regWrite 4` and `placeSource`. Unsafe in the sense U9 says: claims hold under the assumption that the
  host keeps SRC and SRC_LEN stable during a command. -/
  | sourceChangedWhileBusy
deriving DecidableEq, Repr

/-- The machine right after reset (R44, spec/70_reset_and_hazards.md R280), for any configuration: PHASE, ERR, SUBERR, SRC_LEN, COUNT_IN and COUNT_OUT as
the spec says; every other register, unspecified there, 0 (DESIGN CHOICE, unsafe, log 4); no source byte placed, the sink empty (log 5), both
inputs 1 (R100, log 3), no host move pending (log 2). -/
def State.resetWith (c : Config) : State where
  cfg := c
  err := 0
  subErr := 0
  srcLen := 0
  countIn := 0
  countOut := 0
  ft := Vector.replicate 256 0
  nchar := 0
  phase := 0
  mode := .compress
  idx := 0
  symi := 0
  reci := 0
  prev := 0
  emi := 0
  cur := 0
  nodep := 0
  outcnt := 0
  node := Vector.replicate 511 Node.dead
  nnode := 0
  active := Vector.replicate 511 false
  nact := 0
  root := 0
  rootValid := false
  ct := Vector.replicate 256 { valid := false, len := 0, bits := 0 }
  stk := Vector.replicate 256 { node := 0, depth := 0, bit := false }
  sp := 0
  path := Vector.replicate 255 false
  acc := 0
  nb := 0
  bitcnt := 0
  pbuf := []
  plen := 0
  paylen := 0
  poff := 0
  src := []
  snk := []
  srcOk := true
  srcOkNext := []
  snkOk := true
  snkOkNext := []
  host := []
  rdata := 0
  draws := 0

/-- The machine right after reset, in the default configuration. -/
def State.reset : State := State.resetWith Config.default

end Sys2Proof.Machine
end

