-- ==== Sys2Proof/Machine/Operands.lean ====
section
/-! DEFINITION. The operands of the phase operations, all implicit: bytes of a memory, the entries of the register files of
spec/10_state.md R31 to R39, code strings (spec/00_scope.md R15), and the two number forms `ceil8` and `CLEN`. -/

namespace Sys2Proof.Machine

/-! ## Bytes of a memory -/

/-- The byte at address `a`. -/
def readByte : Memory → Nat → Byte
  | [], _ => Memory.unlisted
  | (k, b) :: m, a => if k = a then b else readByte m a

/-- Put the entry `(a, v)` in its place, replacing an entry for `a`. -/
def insertCell : Memory → Nat → Byte → Memory
  | [], a, v => [(a, v)]
  | (k, b) :: m, a, v =>
    if a < k then (a, v) :: (k, b) :: m
    else if a = k then (a, v) :: m
    else (k, b) :: insertCell m a v

/-- The memory with `v` at address `a`; writing what an unlisted address reads as removes the entry. -/
def writeByte (m : Memory) (a : Nat) (v : Byte) : Memory :=
  if v = Memory.unlisted then m.filter (fun c => c.1 != a) else insertCell m a v

/-- The `n` bytes from address `a` on. -/
def readBytes (m : Memory) (a : Nat) : Nat → List Byte
  | 0 => []
  | n + 1 => readByte m a :: readBytes m (a + 1) n

/-- The memory with `bs` from address `a` on. -/
def writeBytes (m : Memory) (a : Nat) : List Byte → Memory
  | [] => m
  | b :: bs => writeBytes (writeByte m a b) (a + 1) bs

/-- The unsigned value of bytes in little-endian order, the first byte the least significant (spec/20_memory.md R64, R67). -/
def leNat : List Byte → Nat
  | [] => 0
  | b :: bs => b.toNat + 256 * leNat bs

/-- The `n` low bytes of `v`, least significant byte first (spec/20_memory.md R66, R67). -/
def leBytes : Nat → Nat → List Byte
  | 0, _ => []
  | n + 1, v => BitVec.ofNat 8 v :: leBytes n (v / 256)

/-! ## Number forms -/

/-- `ceil8(n) = floor(n/8) + (1 if n mod 8 != 0 else 0)` (spec/00_scope.md R11). -/
def ceil8 (n : Nat) : Nat := n / 8 + (if n % 8 = 0 then 0 else 1)

/-- `CLEN(n, B)`, the length of a container (spec/45_container_codec.md R214). -/
def clen (n b : Nat) : Nat := if n = 0 then 8 else 16 + 9 * n + ceil8 b

/-! ## Entries of the register files -/

/-- A register file with entry `i` replaced by `a`. An index that has no entry drops the write; no run uses one (spec/20_memory.md R63, log 8). -/
def setEntry {α : Type} {n : Nat} (v : Vector α n) (i : Nat) (a : α) : Vector α n := if h : i < n then v.set i a h else v

/-- `FT[b]` (R31). -/
def ftGet (s : State) (b : Byte) : Word64 := s.ft[b.toNat]'b.isLt

/-- `FT[b] <- v` (R31). -/
def ftSet (b : Byte) (v : Word64) (s : State) : State := { s with ft := s.ft.set b.toNat v b.isLt }

/-- `NODE[i]` (R35). Index 511 has no entry and is never used (spec/20_memory.md R63, log 8). -/
def nodeAt (s : State) (i : NodeIdx) : Node := s.node[i.toNat]?.getD Node.dead

/-- `ACTIVE[i]` (R36). -/
def activeAt (s : State) (i : Nat) : Bool := s.active[i]?.getD false

/-- `CT[b]` (R37). -/
def ctGet (s : State) (b : Byte) : CodeEntry := s.ct[b.toNat]'b.isLt

/-- `CT[b] <- e` (R37). -/
def ctSet (b : Byte) (e : CodeEntry) (s : State) : State := { s with ct := s.ct.set b.toNat e b.isLt }

/-- The child of an internal node that a bit selects (spec/44_bit_reader_decoder.md R194). -/
def childOf (n : Node) (v : Bool) : NodeIdx := if v then n.one else n.zero

/-! ## Code strings -/

/-- The register form of the code string held in cells `0 .. d-1` of PATH: `BITS[d-1-k] = PATH[k]` (R37, spec/42_code_table.md R163). -/
def pathBits (path : Vector Bool 255) : Nat → BitVec 255
  | 0 => 0
  | k + 1 => (pathBits path k <<< 1) ||| BitVec.setWidth 255 (BitVec.ofBool (path[k]?.getD false))

/-- The `n` low symbols of a register form, bit `n-1` first (R37: `BITS[LEN-1-k] = c[k]`). -/
def symbolsFrom (bits : BitVec 255) : Nat → List Bool
  | 0 => []
  | k + 1 => bits.getLsbD k :: symbolsFrom bits k

/-- The code string of an entry, first symbol first (spec/00_scope.md R15, R37). -/
def codeString (e : CodeEntry) : List Bool := symbolsFrom e.bits e.len.toNat

end Sys2Proof.Machine
end

