-- ==== Sys2Proof/Machine/Flags.lean ====
section
/-! DEFINITION. The one-bit predicates that rules test (spec/10_state.md R41): HUFFCORE has no condition codes. And STATUS, which is a function of PHASE (R23). -/

namespace Sys2Proof.Machine

/-- `ST` as a function of PHASE: 0 IDLE, 1 BUSY, 2 DONE, 3 ERROR (R23). -/
def statusOf (ph : BitVec 4) : BitVec 2 :=
  if ph = phaseCode .idle then 0
  else if ph = phaseCode .done then 2
  else if ph = phaseCode .error then 3
  else 1

/-- `ST = BUSY` (R23). -/
def busy (s : State) : Bool := statusOf s.phase == 1

/-- `NODE[i].LEAF` (R35). -/
def isLeaf (s : State) (i : NodeIdx) : Bool := (nodeAt s i).leaf

/-- `CT[b].VALID` (R37). -/
def hasCode (s : State) (b : Byte) : Bool := (ctGet s b).valid

/-- `NODE[i].WT` at a natural index. -/
def weightAt (s : State) (i : Nat) : Weight := (s.node[i]?.getD Node.dead).wt

/-- The priority order on pairs of a weight and an arena index: smaller weight, and among equal weights the smaller index
(spec/41_tree_builder.md R141). -/
def before (w : Weight) (i : Nat) (v : Weight) (j : Nat) : Bool := decide (w < v) || (w == v && decide (i < j))

/-- The priority order `i << j` on arena indexes (spec/41_tree_builder.md R141). -/
def precedes (s : State) (i j : Nat) : Bool := before (weightAt s i) i (weightAt s j) j

end Sys2Proof.Machine
end

