-- ==== Sys2Proof/Machine/Ops.lean ====
section
/-! DEFINITION. The shared operations: the sampling of the inputs, MemRead and MemWrite (spec/20_memory.md), the abort and the acceptance of a command, which is the only
way out of ERROR (spec/60_exceptions.md R256, R260), and the end of a command (spec/46_commands_fsm.md R240). -/

namespace Sys2Proof.Machine

/-- The error kinds (spec/60_exceptions.md R250). -/
inductive ErrKind where
  | sourceUnavailable
  | formatError
  | sinkError
deriving DecidableEq, Repr

/-- The sub-causes (spec/60_exceptions.md R252). -/
inductive SubCause where
  | none
  | truncHeader
  | badCount
  | truncRecord
  | badRecord
  | truncBitcount
  | truncPayload
  | noBranch
  | pastPayload
  | tooLong
deriving DecidableEq, Repr

/-- The code of a kind in ERR (R251). -/
def errCode : ErrKind → BitVec 2
  | .sourceUnavailable => 1
  | .formatError => 2
  | .sinkError => 3

/-- The code of a sub-cause in SUBERR (R252). -/
def subCode : SubCause → BitVec 4
  | .none => 0
  | .truncHeader => 1
  | .badCount => 2
  | .truncRecord => 3
  | .badRecord => 4
  | .truncBitcount => 5
  | .truncPayload => 6
  | .noBranch => 7
  | .pastPayload => 8
  | .tooLong => 9

/-- How a piece of a phase operation ends: it goes on with a value, the command was aborted (the state is already the one after
the abort, and nothing after the `raise` executes, spec/00_scope.md R14), or the machine stops. -/
inductive Res (α : Type) where
  | ok (a : α) (s : State)
  | abort (s : State)
  | fault (f : Fault)

/-- Go on with `k` unless the piece before it ended the operation. -/
def andThen {α β : Type} (r : Res α) (k : α → State → Res β) : Res β :=
  match r with
  | .ok a s => k a s
  | .abort s => .abort s
  | .fault f => .fault f

/-- A phase operation as a step: an abort is a next state. -/
def finish (r : Res Unit) : Host.Outcome State Fault Refusal :=
  match r with
  | .ok _ s => .next s
  | .abort s => .next s
  | .fault f => .fault f

/-- `phase <- P`. -/
def toPhase (i : Instr) (s : State) : State := { s with phase := phaseCode i }

/-! ## Aborts -/

/-- The sink of a command that failed or was abandoned: the host's earlier bytes stay, and what the command appended becomes a FREE VALUE
(spec/60_exceptions.md R257, spec/70_reset_and_hazards.md R289, U2; log 6). -/
def discardSink (s : State) : State :=
  { s with
    snk := s.snk.take (s.snk.length - s.outcnt.toNat) ++ Config.sinkAfterFailure s.draws
    draws := s.draws + 1 }

/-- `Abort(E, S)` (spec/60_exceptions.md R256): ERR and SUBERR written, both counts 0, PHASE = ERROR, nothing saved; the sink's new contents are unspecified (R257). -/
def takeAbort (e : ErrKind) (c : SubCause) (s : State) : State :=
  discardSink { s with err := errCode e, subErr := subCode c, countIn := 0, countOut := 0, phase := phaseCode .error }

/-- `raise Abort(E, S)` (spec/00_scope.md R14). -/
def raise {α : Type} (e : ErrKind) (c : SubCause) (s : State) : Res α := .abort (takeAbort e c s)

/-- The registers a command clears when it is accepted, and MODE (spec/46_commands_fsm.md R233, R234). There is no other return from an abort (R260). -/
def accept (m : Mode) (s : State) : State :=
  { s with err := 0, subErr := 0, countIn := 0, countOut := 0, outcnt := 0, mode := m }

/-- The counts at DONE, written in the step in which PHASE becomes DONE (R238, R240). -/
def enterDone (countIn : Nat) (s : State) : State :=
  { s with countIn := BitVec.ofNat 64 countIn, countOut := s.outcnt, phase := phaseCode .done }

/-! ## Inputs -/

/-- One sample of `SRC_OK` (R30; log 3). -/
def sampleSrc (s : State) : Bool × State :=
  match s.srcOkNext with
  | [] => (s.srcOk, s)
  | b :: rest => (b, { s with srcOkNext := rest })

/-- One sample of `SNK_OK` (R30; log 3). -/
def sampleSnk (s : State) : Bool × State :=
  match s.snkOkNext with
  | [] => (s.snkOk, s)
  | b :: rest => (b, { s with snkOkNext := rest })

/-! ## The read primitive -/

/-- `MemRead(SRC, a, n) [S]` (spec/20_memory.md R64): `SRC_OK` is sampled before the bounds check; `a + n` does not wrap. -/
def memRead (a n : Nat) (c : SubCause) (s : State) : Res Nat :=
  match sampleSrc s with
  | (false, s') => raise .sourceUnavailable .none s'
  | (true, s') =>
    if a + n > s'.srcLen.toNat then raise .formatError c s'
    else .ok (leNat (readBytes s'.src a n)) s'

/-- `SrcRead(a)`, in COMPRESS, where no sub-cause is needed (R64). -/
def srcRead (a : Nat) (s : State) : Res Byte :=
  andThen (memRead a 1 .none s) fun v s' => .ok (BitVec.ofNat 8 v) s'

/-! ## The write primitive -/

/-- Append one byte to the sink and count it (R62, R66). -/
def appendByte (b : Byte) (s : State) : State := { s with snk := s.snk ++ [b], outcnt := s.outcnt + 1 }

/-- Append bytes in order; `SNK_OK` is sampled before each (R66). -/
def sinkBytes : List Byte → State → Res Unit
  | [], s => .ok () s
  | b :: bs, s =>
    match sampleSnk s with
    | (false, s') => raise .sinkError .none s'
    | (true, s') => sinkBytes bs (appendByte b s')

/-- `MemWrite(SNK, n, v)` (spec/20_memory.md R66). -/
def memWrite (n v : Nat) (s : State) : Res Unit := sinkBytes (leBytes n v) s

/-- `SinkWrite(b)` (R66). -/
def sinkWrite (b : Byte) (s : State) : Res Unit := memWrite 1 b.toNat s

/-! ## Starting a command -/

/-- What COMPRESS and DECOMPRESS do when they are accepted (spec/46_commands_fsm.md R233, R234): `SRC_OK` before the capacity (R258 (a)). -/
def startCommand (m : Mode) (first : Instr) (s : State) : Res Unit :=
  match sampleSrc (accept m s) with
  | (false, s') => raise .sourceUnavailable .none s'
  | (true, s') =>
    if s'.srcLen.toNat > s'.cfg.srcCap.toNat then raise .sourceUnavailable .tooLong s'
    else .ok () (toPhase first s')

end Sys2Proof.Machine
end

