-- ==== Sys2Proof/Machine/BitPacker.lean ====
section
/-! DEFINITION. The bit packer (spec/43_bit_packer.md): PACK, FLUSH and the helpers BP.INIT, BP.PUTBIT and BP.PUTCODE. -/

namespace Sys2Proof.Machine

/-- BP.INIT (R176). -/
def bpInit (s : State) : State := { s with acc := 0, nb := 0, bitcnt := 0, plen := 0 }

/-- `ACC[6:0] ++ v`: shift left by one, the new bit enters at bit 0 (R177). -/
def shiftIn (acc : BitVec 8) (v : Bool) : BitVec 8 := BitVec.concat (acc.setWidth 7) v

/-- BP.PUTBIT(v) (R177). -/
def putBit (v : Bool) (s : State) : State :=
  let acc := shiftIn s.acc v
  if s.nb = 7 then
    { s with pbuf := writeByte s.pbuf s.plen.toNat acc, plen := s.plen + 1, nb := 0, acc := 0 }
  else { s with acc := acc, nb := s.nb + 1 }

/-- Put bits in order. -/
def putBits : List Bool → State → State
  | [], s => s
  | v :: vs, s => putBits vs (putBit v s)

/-- BP.PUTCODE(b) for the entry `e = CT[b]` (R178): the code string, first symbol first, and its length added to BITCNT. -/
def putCode (e : CodeEntry) (s : State) : State :=
  let s' := putBits (codeString e) s
  { s' with bitcnt := s'.bitcnt + e.len.setWidth 64 }

/-- One micro-step of PACK after the byte `b` was read (R179). A byte with no code is the fault `PACK_NO_CODE` (R183, U6). -/
def packByte (b : Byte) (s : State) : Res Unit :=
  let e := ctGet s b
  if e.valid then
    let s' := putCode e s
    .ok () { s' with idx := s'.idx + 1 }
  else .fault .packNoCode

/-- `n` micro-steps of PACK (R179). -/
def packLoop : Nat → State → Res Unit
  | 0, s => .ok () s
  | n + 1, s =>
    andThen (srcRead s.idx.toNat s) fun b s1 => andThen (packByte b s1) fun _ s2 => packLoop n s2

/-- PACK (R179): SRC_LEN micro-steps. -/
def execPack (s : State) : Host.Outcome State Fault Refusal :=
  finish (andThen (packLoop s.srcLen.toNat { bpInit s with idx := 0 }) fun _ s' => .ok () (toPhase .flush s'))

/-- `while NB != 0: BP.PUTBIT(0)`, at most `n` times (R180). -/
def padLoop : Nat → State → State
  | 0, s => s
  | n + 1, s => if s.nb = 0 then s else padLoop n (putBit false s)

/-- FLUSH (R180): the extra zero bit, always, then zero bits to the byte boundary, at most seven. -/
def execFlush (s : State) : Host.Outcome State Fault Refusal :=
  .next (toPhase .emit (padLoop 7 (putBit false s)))

end Sys2Proof.Machine
end

