-- ==== Sys2Proof/Machine/BitReader.lean ====
section
/-! DEFINITION. The bit reader and decoder (spec/44_bit_reader_decoder.md): DECODE and its helper BR.GETBIT. -/

namespace Sys2Proof.Machine

/-- Bit `7 - (p mod 8)` of a payload byte (spec/20_memory.md R68, R191). -/
def payloadBit (byte p : Nat) : Bool := byte.testBit (7 - p % 8)

/-- BR.GETBIT (R191): PAST_PAYLOAD is decided before `SRC_OK` is sampled (spec/60_exceptions.md R258 (c)). -/
def getBit (s : State) : Res Bool :=
  if s.cur.toNat ≥ 8 * s.paylen.toNat then raise .formatError .pastPayload s
  else
    andThen (memRead (s.poff.toNat + s.cur.toNat / 8) 1 .truncPayload s) fun byte s' =>
      .ok (payloadBit byte s'.cur.toNat) { s' with cur := s'.cur + 1 }

/-- The descent, at most `n` bits (R194). No descent needs more bits than the payload has left, because BR.GETBIT aborts there. -/
def descend : Nat → State → Res Unit
  | 0, s => if isLeaf s s.nodep then .ok () s else .fault .treeNotWellFormed
  | n + 1, s =>
    if isLeaf s s.nodep then .ok () s
    else andThen (getBit s) fun v s' => descend n { s' with nodep := childOf (nodeAt s' s'.nodep) v }

/-- One iteration of the outer loop: one output byte (R192). A lone leaf is emitted without reading a bit (R193). -/
def decodeSymbol (s : State) : Res Unit :=
  if isLeaf s s.root then
    andThen (sinkWrite (nodeAt s s.root).sym s) fun _ s' => .ok () { s' with cur := s'.cur + 1 }
  else
    andThen (descend (8 * s.paylen.toNat + 1) { s with nodep := s.root }) fun _ s' =>
      sinkWrite (nodeAt s' s'.nodep).sym s'

/-- `while CUR < BITCNT`, at most `n` iterations (R192). Each iteration advances CUR by at least 1 (R197). -/
def decodeLoop : Nat → State → Res Unit
  | 0, s => .ok () s
  | n + 1, s =>
    if s.cur < s.bitcnt then andThen (decodeSymbol s) fun _ s' => decodeLoop n s'
    else .ok () s

/-- DECODE (R192). COUNT_IN is the length of the container (spec/46_commands_fsm.md R240). -/
def execDecode (s : State) : Host.Outcome State Fault Refusal :=
  finish (andThen (decodeLoop s.bitcnt.toNat { s with cur := 0 }) fun _ s' =>
    .ok () (enterDone (clen s'.nchar.toNat s'.bitcnt.toNat) s'))

end Sys2Proof.Machine
end

