-- ==== Sys2Proof/Machine/CodeTable.lean ====
section
/-! DEFINITION. Code-table generation by tree traversal (spec/42_code_table.md): CODES, carried out as R163 says, without recursion. -/

namespace Sys2Proof.Machine

/-- `for b = 0 .. 255: CT[b].VALID <- 0` (R161). -/
def ctClear (s : State) : State := { s with ct := s.ct.map fun e => { e with valid := false } }

/-- `push e` (R163). STK has 256 entries; a tree never needs more (log 8). -/
def pushStk (e : StkEntry) (s : State) : Res Unit :=
  if s.sp.toNat < 256 then .ok () { s with stk := setEntry s.stk s.sp.toNat e, sp := s.sp + 1 }
  else .fault .treeNotWellFormed

/-- The entry `pop` reads (R163). -/
def topStk (s : State) : StkEntry :=
  s.stk[(s.sp - 1).toNat]?.getD { node := 0, depth := 0, bit := false }

/-- `pop`, and `if e.DEPTH > 0: PATH[e.DEPTH - 1] <- e.BIT` (R163). -/
def popStk (s : State) : State :=
  let e := topStk s
  { s with
    sp := s.sp - 1
    path := if e.depth = 0 then s.path else setEntry s.path (e.depth.toNat - 1) e.bit }

/-- What a visit does after the pop of `e`: record the code of a leaf, or push both children, the zero-branch on top (R163). -/
def visit (e : StkEntry) (s : State) : Res Unit :=
  let n := nodeAt s e.node
  if n.leaf then
    .ok () (ctSet n.sym { valid := true, len := e.depth, bits := pathBits s.path e.depth.toNat } s)
  else
    andThen (pushStk { node := n.one, depth := e.depth + 1, bit := true } s) fun _ s' =>
      pushStk { node := n.zero, depth := e.depth + 1, bit := false } s'

/-- At most `n` visits (R163). A tree has at most 511 nodes, so a walk that needs more never ends: the arena holds no tree (log 8). -/
def walkLoop : Nat → State → Res Unit
  | 0, s => if s.sp = 0 then .ok () s else .fault .treeNotWellFormed
  | n + 1, s =>
    if s.sp = 0 then .ok () s
    else andThen (visit (topStk s) (popStk s)) fun _ s' => walkLoop n s'

/-- The walk from ROOT; a lone leaf gets the code "0" (R162, R163). -/
def walkRoot (s : State) : Res Unit :=
  let n := nodeAt s s.root
  if n.leaf then .ok () (ctSet n.sym { valid := true, len := 1, bits := 0 } s)
  else
    andThen (pushStk { node := s.root, depth := 0, bit := false } { s with sp := 0 }) fun _ s' => walkLoop 511 s'

/-- CODES (R161). -/
def execCodes (s : State) : Host.Outcome State Fault Refusal :=
  finish (andThen (walkRoot (ctClear s)) fun _ s' => .ok () (toPhase .pack s'))

end Sys2Proof.Machine
end

