-- ==== Sys2Proof/Machine/Commands.lean ====
section
/-! DEFINITION. The host commands (spec/46_commands_fsm.md R231 to R235) and the phases in which the engine waits or is stuck (R237 to R239, spec/30_encoding.md
R98). -/

namespace Sys2Proof.Machine

/-- NOP changes no state in any phase (R232). -/
def execNop (s : State) : Host.Outcome State Fault Refusal := .next s

/-- COMPRESS (R233); ignored while BUSY (R231). -/
def execCompress (s : State) : Host.Outcome State Fault Refusal :=
  if busy s then .next s else finish (startCommand .compress .hist s)

/-- DECOMPRESS (R234); ignored while BUSY (R231). -/
def execDecompress (s : State) : Host.Outcome State Fault Refusal :=
  if busy s then .next s else finish (startCommand .decompress .dhdr s)

/-- The reserved command is ignored in every phase (R235). -/
def execCmdReserved3 (s : State) : Host.Outcome State Fault Refusal := .next s

/-- IDLE: the engine does nothing until a command is accepted (R237). -/
def execIdle (s : State) : Host.Outcome State Fault Refusal := .next s

/-- DONE: the engine does nothing until a command is accepted; the counts were written on entry (R238). -/
def execDone (s : State) : Host.Outcome State Fault Refusal := .next s

/-- ERROR: the engine does nothing until a command is accepted (R239). -/
def execError (s : State) : Host.Outcome State Fault Refusal := .next s

/-- PHASE 14 has no transition (R98, U7: `stuck`). -/
def execPhaseUnreachable14 (_s : State) : Host.Outcome State Fault Refusal := .fault (.unreachablePhase 14)

/-- PHASE 15 has no transition (R98, U7: `stuck`). -/
def execPhaseUnreachable15 (_s : State) : Host.Outcome State Fault Refusal := .fault (.unreachablePhase 15)

end Sys2Proof.Machine
end

