-- ==== Sys2Proof/Machine/Histogram.lean ====
section
/-! DEFINITION. The frequency histogram accumulator (spec/40_histogram.md): HIST and the helpers HIST.CLR and HIST.LOAD. -/

namespace Sys2Proof.Machine

/-- HIST.CLR (R121). -/
def histClr (s : State) : State := { s with ft := Vector.replicate 256 0 }

/-- HIST.LOAD(b, f) (R124). -/
def histLoad (b : Byte) (f : Word64) (s : State) : State := ftSet b f s

/-- One micro-step of HIST after the byte `b` was read: `FT[b] <- FT[b] + 1; IDX <- IDX + 1` (R122). -/
def histCount (b : Byte) (s : State) : State :=
  { ftSet b (ftGet s b + 1) s with idx := s.idx + 1 }

/-- `n` micro-steps of HIST (R122). -/
def histLoop : Nat → State → Res Unit
  | 0, s => .ok () s
  | n + 1, s => andThen (srcRead s.idx.toNat s) fun b s' => histLoop n (histCount b s')

/-- HIST (R122). IDX starts at 0 and grows by 1, so the loop `while IDX < SRC_LEN` makes SRC_LEN micro-steps. -/
def execHist (s : State) : Host.Outcome State Fault Refusal :=
  finish (andThen (histLoop s.srcLen.toNat { histClr s with idx := 0 }) fun _ s' => .ok () (toPhase .leaves s'))

end Sys2Proof.Machine
end

