-- ==== Sys2Proof/Machine/Container.lean ====
section
/-! DEFINITION. The container codec (spec/45_container_codec.md): EMIT, DHDR, DRECS and DBITS. -/

namespace Sys2Proof.Machine

/-- One micro-step of the record loop of EMIT: the byte value SYMI (R207, R209). -/
def emitRecord (s : State) : Res Unit :=
  let b : Byte := s.symi.setWidth 8
  let f := ftGet s b
  andThen
    (if f = 0 then .ok () s
     else andThen (memWrite 1 b.toNat s) fun _ s' => memWrite 8 f.toNat s')
    fun _ s' => .ok () { s' with symi := s'.symi + 1 }

/-- `n` micro-steps of the record loop. -/
def emitRecords : Nat → State → Res Unit
  | 0, s => .ok () s
  | n + 1, s => andThen (emitRecord s) fun _ s' => emitRecords n s'

/-- `n` micro-steps of the payload loop (R207, R211). -/
def emitPayload : Nat → State → Res Unit
  | 0, s => .ok () s
  | n + 1, s =>
    andThen (sinkWrite (readByte s.pbuf s.emi.toNat) s) fun _ s' => emitPayload n { s' with emi := s'.emi + 1 }

/-- `ELEN` (R207, R213). -/
def elen (s : State) : Nat := if s.cfg.emitPadByte then s.plen.toNat else ceil8 s.bitcnt.toNat

/-- EMIT (R207). With NCHAR = 0 only the field `charCount` is written (R208). -/
def execEmit (s : State) : Host.Outcome State Fault Refusal :=
  finish (andThen (memWrite 8 s.nchar.toNat s) fun _ s1 =>
    if s1.nchar = 0 then .ok () (enterDone s1.srcLen.toNat s1)
    else
      andThen (emitRecords 256 { s1 with symi := 0 }) fun _ s2 =>
      andThen (memWrite 8 s2.bitcnt.toNat s2) fun _ s3 =>
      andThen (emitPayload (elen s3) { s3 with emi := 0 }) fun _ s4 =>
      .ok () (enterDone s4.srcLen.toNat s4))

/-- DHDR (R215). With `charCount = 0` the command consumed 8 bytes (spec/46_commands_fsm.md R240). -/
def execDhdr (s : State) : Host.Outcome State Fault Refusal :=
  finish (andThen (memRead 0 8 .truncHeader s) fun c s' =>
    if c = 0 then .ok () (enterDone 8 s')
    else if c > 256 then raise .formatError .badCount s'
    else .ok () (toPhase .drecs { s' with nchar := BitVec.ofNat 9 c }))

/-- One micro-step of DRECS: the record RECI (R216). -/
def readRecord (s : State) : Res Unit :=
  let a := 8 + 9 * s.reci.toNat
  andThen (memRead a 1 .truncRecord s) fun b s1 =>
  andThen (memRead (a + 1) 8 .truncRecord s1) fun f s2 =>
  if b < s2.prev.toNat ∨ f = 0 then raise .formatError .badRecord s2
  else
    let s3 := histLoad (BitVec.ofNat 8 b) (BitVec.ofNat 64 f) s2
    .ok () { s3 with prev := BitVec.ofNat 9 (b + 1), reci := s3.reci + 1 }

/-- `n` micro-steps of DRECS. -/
def readRecords : Nat → State → Res Unit
  | 0, s => .ok () s
  | n + 1, s => andThen (readRecord s) fun _ s' => readRecords n s'

/-- DRECS (R216): NCHAR micro-steps. -/
def execDrecs (s : State) : Host.Outcome State Fault Refusal :=
  finish (andThen (readRecords s.nchar.toNat { histClr s with reci := 0, prev := 0 }) fun _ s' =>
    .ok () (toPhase .leaves s'))

/-- DBITS (R217). The three registers are written before the check of the payload's length, and an abort leaves them as they are. -/
def execDbits (s : State) : Host.Outcome State Fault Refusal :=
  finish (andThen (memRead (8 + 9 * s.nchar.toNat) 8 .truncBitcount s) fun v s1 =>
    let poff := 16 + 9 * s1.nchar.toNat
    let s2 : State :=
      { s1 with bitcnt := BitVec.ofNat 64 v, paylen := BitVec.ofNat 64 (ceil8 v), poff := BitVec.ofNat 64 poff }
    if poff + ceil8 v > s2.srcLen.toNat then raise .formatError .truncPayload s2
    else .ok () (toPhase .decode s2))

end Sys2Proof.Machine
end

