-- ==== Sys2Proof/Machine/TreeBuilder.lean ====
section
/-! DEFINITION. The Huffman tree builder (spec/41_tree_builder.md): LEAVES, MERGE and the helper RemoveMin. -/

namespace Sys2Proof.Machine

/-- Write the next arena entry, make it active, and count it (R142, R144). -/
def allocNode (n : Node) (s : State) : State :=
  { s with
    node := setEntry s.node s.nnode.toNat n
    active := setEntry s.active s.nnode.toNat true
    nnode := s.nnode + 1
    nact := s.nact + 1 }

/-- The leaf of byte value `b` (R142). -/
def leafNode (b : Byte) (f : Word64) : Node :=
  { leaf := true, sym := b, wt := f.setWidth 72, zero := 0, one := 0 }

/-- One micro-step of LEAVES: the byte value SYMI (R142). -/
def leavesStep (s : State) : State :=
  let b : Byte := s.symi.setWidth 8
  let f := ftGet s b
  let s' := if f = 0 then s else allocNode (leafNode b f) s
  { s' with symi := s'.symi + 1 }

/-- `n` micro-steps of LEAVES. -/
def leavesLoop : Nat → State → State
  | 0, s => s
  | n + 1, s => leavesLoop n (leavesStep s)

/-- What LEAVES initialises (R142). -/
def leavesInit (s : State) : State :=
  { s with nnode := 0, nact := 0, rootValid := false, active := Vector.replicate 511 false, symi := 0 }

/-- `if MODE = 0: NCHAR <- NNODE` (R142). -/
def leavesCount (s : State) : State :=
  match s.mode with
  | .compress => { s with nchar := s.nnode }
  | .decompress => s

/-- LEAVES (R142). -/
def execLeaves (s : State) : Host.Outcome State Fault Refusal :=
  .next (toPhase .merge (leavesCount (leavesLoop 256 (leavesInit s))))

/-- The least active node among the entries `es`, the first of which has index `i`, and the least active one before them, `best` (R141, R143). -/
def leastFrom : List (Bool × Node) → Nat → Option (Nat × Weight) → Option Nat
  | [], _, best => best.map Prod.fst
  | (false, _) :: es, i, best => leastFrom es (i + 1) best
  | (true, n) :: es, i, none => leastFrom es (i + 1) (some (i, n.wt))
  | (true, n) :: es, i, some (j, w) =>
    if before n.wt i w j then leastFrom es (i + 1) (some (i, n.wt)) else leastFrom es (i + 1) (some (j, w))

/-- The least active node (R143), if there is one. -/
def leastActive (s : State) : Option Nat := leastFrom (s.active.toList.zip s.node.toList) 0 none

/-- RemoveMin (R143). -/
def removeMin (s : State) : Res NodeIdx :=
  match leastActive s with
  | none => .fault .noActiveNode
  | some m => .ok (BitVec.ofNat 9 m) { s with active := setEntry s.active m false, nact := s.nact - 1 }

/-- The internal node over `a`, removed first, and `b`, removed second (R144). The weight is the exact 72-bit sum (R148). -/
def mergedNode (s : State) (a b : NodeIdx) : Node :=
  { leaf := false, sym := 0, wt := (nodeAt s a).wt + (nodeAt s b).wt, zero := a, one := b }

/-- One merge (R144). -/
def mergeStep (s : State) : Res Unit :=
  andThen (removeMin s) fun a s1 =>
  andThen (removeMin s1) fun b s2 =>
  .ok () (allocNode (mergedNode s2 a b) s2)

/-- `n` merges. -/
def mergeLoop : Nat → State → Res Unit
  | 0, s => .ok () s
  | n + 1, s => andThen (mergeStep s) fun _ s' => mergeLoop n s'

/-- The index of the first active node, if there is one. -/
def firstActive (s : State) : Option Nat := (List.range 511).find? (activeAt s)

/-- `if NACT = 1: ROOT <- the one i with ACTIVE[i] = 1; ROOT_VALID <- 1; else ROOT_VALID <- 0` (R144). -/
def chooseRoot (s : State) : Res Unit :=
  if s.nact = 1 then
    match firstActive s with
    | none => .fault .noActiveNode
    | some i => .ok () { s with root := BitVec.ofNat 9 i, rootValid := true }
  else .ok () { s with rootValid := false }

/-- Where MERGE goes next (R144, spec/46_commands_fsm.md R236). -/
def afterMerge (s : State) : Instr :=
  match s.mode with
  | .decompress => .dbits
  | .compress => if s.rootValid then .codes else .emit

/-- MERGE (R144). A merge lowers NACT by one, so the loop `while NACT > 1` makes NACT - 1 merges (R145). -/
def execMerge (s : State) : Host.Outcome State Fault Refusal :=
  finish (andThen (mergeLoop (s.nact.toNat - 1) s) fun _ s1 =>
    andThen (chooseRoot s1) fun _ s2 => .ok () (toPhase (afterMerge s2) s2))

end Sys2Proof.Machine
end

