-- ==== Sys2Proof/Machine/Dispatch.lean ====
section
/-! DEFINITION. The dispatch: one arm per constructor of Instr, each one call of the operation's meaning. -/

namespace Sys2Proof.Machine

def exec (i : Instr) (s : State) : Host.Outcome State Fault Refusal :=
  match i with
  | .nop => Sys2Proof.Machine.execNop s
  | .compress => Sys2Proof.Machine.execCompress s
  | .decompress => Sys2Proof.Machine.execDecompress s
  | .cmdReserved3 => Sys2Proof.Machine.execCmdReserved3 s
  | .idle => Sys2Proof.Machine.execIdle s
  | .hist => Sys2Proof.Machine.execHist s
  | .leaves => Sys2Proof.Machine.execLeaves s
  | .merge => Sys2Proof.Machine.execMerge s
  | .codes => Sys2Proof.Machine.execCodes s
  | .pack => Sys2Proof.Machine.execPack s
  | .flush => Sys2Proof.Machine.execFlush s
  | .emit => Sys2Proof.Machine.execEmit s
  | .dhdr => Sys2Proof.Machine.execDhdr s
  | .drecs => Sys2Proof.Machine.execDrecs s
  | .dbits => Sys2Proof.Machine.execDbits s
  | .decode => Sys2Proof.Machine.execDecode s
  | .done => Sys2Proof.Machine.execDone s
  | .error => Sys2Proof.Machine.execError s
  | .phaseUnreachable14 => Sys2Proof.Machine.execPhaseUnreachable14 s
  | .phaseUnreachable15 => Sys2Proof.Machine.execPhaseUnreachable15 s

end Sys2Proof.Machine
end

