-- ==== Sys2Proof/Machine/HostPort.lean ====
section
/-! DEFINITION. The host's moves (spec/70_reset_and_hazards.md R285; spec/10_state.md R21 to R30) and the choice of what a step does: the head of the host's list of moves says
whether the host or the engine moves next (log 2). -/

namespace Sys2Proof.Machine

/-- What a read of host register `n` returns, zero-extended (R21): CMD and register 7 read 0. -/
def regRead (n : Fin 8) (s : State) : Word64 :=
  match n.val with
  | 1 => (statusOf s.phase).setWidth 64
  | 2 => s.err.setWidth 64
  | 3 => s.subErr.setWidth 64
  | 4 => s.srcLen
  | 5 => s.countIn
  | 6 => s.countOut
  | _ => 0

/-- A write of `v` to a host register other than CMD (R21): SRC_LEN takes its low 64 bits, and the write is refused while BUSY (R286, U9);
a write to a read-only or reserved register is ignored. -/
def regWrite (n : Fin 8) (v : Nat) (s : State) : Host.Outcome State Fault Refusal :=
  if n.val = 4 then
    if busy s then .refused .sourceChangedWhileBusy else .next { s with srcLen := BitVec.ofNat 64 v }
  else .next s

/-- The host places bytes in the source window (R282 (a)). While BUSY it must not touch a byte below SRC_LEN (R286, U9); bytes beyond are free (R290). -/
def placeSource (off : Nat) (bytes : List Byte) (s : State) : Host.Outcome State Fault Refusal :=
  if off + bytes.length > 2 ^ 64 then .fault .noSuchSourceByte
  else if busy s && decide (off < s.srcLen.toNat) && !bytes.isEmpty then .refused .sourceChangedWhileBusy
  else .next { s with src := writeBytes s.src off bytes }

/-- `RST` (R280): the engine's registers are those of `State.resetWith`; SRC and SNK, the inputs and the host are not touched. A command that was running is abandoned, and its bytes in
the sink are unspecified (R280, R289, U2). -/
def applyReset (s : State) : State :=
  let s' := if busy s then discardSink s else s
  { State.resetWith s.cfg with
    src := s'.src
    snk := s'.snk
    srcOk := s'.srcOk
    srcOkNext := s'.srcOkNext
    snkOk := s'.snkOk
    snkOkNext := s'.snkOkNext
    host := s'.host
    rdata := s'.rdata
    draws := s'.draws }

/-- What a step does: execute an operation at a state, or answer a move of the host. -/
inductive Move where
  | run (i : Instr) (s : State)
  | answer (o : Host.Outcome State Fault Refusal)

/-- The operation PHASE selects (R92, spec/20_memory.md R79: the phase table is hardwired). -/
def phaseOp (s : State) : Instr := decodePhase s.phase

/-- The choice of what a step does. A write to CMD executes the command it presents (R22); when the host makes no move, the engine executes the operation
that PHASE selects. -/
def nextMove (s : State) : Move :=
  match s.host with
  | [] => .run (phaseOp s) s
  | m :: rest =>
    let s' := { s with host := rest }
    match m with
    | .regWrite n v => if n.val = 0 then .run (decodeCmd (cmdField v)) s' else .answer (regWrite n v s')
    | .regRead n => .answer (.next { s' with rdata := regRead n s' })
    | .placeSource off bytes => .answer (placeSource off bytes s')
    | .driveSrcOk next level => .answer (.next { s' with srcOkNext := next, srcOk := level })
    | .driveSnkOk next level => .answer (.next { s' with snkOkNext := next, snkOk := level })
    | .drainSink n => .answer (.next { s' with snk := s'.snk.drop n })
    | .rst => .answer (.next (applyReset s'))
    | .engine => .run (phaseOp s') s'
    | .wait => if busy s then .run (phaseOp s) s else .answer (.next { s' with rdata := regRead 1 s' })

/-- Place a table word where the next step takes its operation from (log 9): a command as the host's next write to CMD, a phase operation in PHASE with the
engine's move next. -/
def placeWord (f : Format) (w : Nat) (s : State) : State :=
  match f with
  | .cmd => { s with host := .regWrite 0 w :: s.host }
  | .phase => { s with phase := BitVec.ofNat 4 w, host := .engine :: s.host }

end Sys2Proof.Machine
end

