-- ==== Sys2Proof/Machine/Step.lean ====
section
/-! DEFINITION. One step of the machine, and where the host of this package places a table word. -/

namespace Sys2Proof.Machine

/-- One step: the host's move, or the operation to execute next. -/
def step (s : State) : Host.Outcome State Fault Refusal :=
  match nextMove s with
  | .run i s' => exec i s'
  | .answer o => o

/-- `s` with a word of spec/opcode_table.json placed where the next step takes its operation from (log 9). -/
def State.withFetchWord (s : State) (nbits w : Nat) : State := placeWord (tableFormat nbits w) w s

end Sys2Proof.Machine
end

