-- ==== Sys2Proof/Safety.lean ====
section
/-! DEFINITION. What counts as a safe run of HUFFCORE, in the terms that statements use: the samples of the inputs, the bytes of the source and of a container, the shape
of a tree, and the invariants. -/

namespace Sys2Proof.Safety

open Sys2Proof.Machine

/-! ## The inputs -/

/-- The `k`-th coming sample of an input, counted from 0 (spec/10_state.md R30). -/
def sampleAt (next : List Bool) (level : Bool) (k : Nat) : Bool := next[k]?.getD level

/-- The `k`-th coming sample of `SRC_OK`. -/
def srcSample (s : State) (k : Nat) : Bool := sampleAt s.srcOkNext s.srcOk k

/-- The `k`-th coming sample of `SNK_OK`. -/
def snkSample (s : State) (k : Nat) : Bool := sampleAt s.snkOkNext s.snkOk k

/-- The next `n` samples of `SRC_OK` are 1 (the premise of R30). -/
abbrev srcReady (s : State) (n : Nat) : Prop := ∀ k < n, srcSample s k = true

/-- The next `n` samples of `SNK_OK` are 1 (the premise of R30). -/
abbrev snkReady (s : State) (n : Nat) : Prop := ∀ k < n, snkSample s k = true

/-! ## The source, the pack buffer and the payload -/

/-- `SRC[0 .. SRC_LEN-1]`. -/
def sourceBytes (s : State) : List Byte := readBytes s.src 0 s.srcLen.toNat

/-- The byte values with a non-zero FT entry, in ascending order (spec/41_tree_builder.md R142). -/
def presentBytes (s : State) : List Byte :=
  ((List.range 256).map (BitVec.ofNat 8)).filter fun b => ftGet s b != 0

/-- Bit number `p` put into the packer: in PBUF, or still in ACC (spec/43_bit_packer.md R177, R181). -/
def packedBit (s : State) (p : Nat) : Bool :=
  if p / 8 < s.plen.toNat then (readByte s.pbuf (p / 8)).getLsbD (7 - p % 8)
  else s.acc.getLsbD (s.nb.toNat - 1 - p % 8)

/-- All bits put into the packer, first one first: `8*PLEN + NB` of them (R39). -/
def packedBits (s : State) : List Bool := (List.range (8 * s.plen.toNat + s.nb.toNat)).map (packedBit s)

/-- The code strings of bytes, one after the other (spec/43_bit_packer.md R179). -/
def codedBits (s : State) (bs : List Byte) : List Bool := bs.flatMap fun b => codeString (ctGet s b)

/-- Payload bit number `p` in the source window (spec/30_encoding.md R96). -/
def payloadBitAt (s : State) (p : Nat) : Bool := payloadBit (readByte s.src (s.poff.toNat + p / 8)).toNat p

/-! ## The container -/

/-- The records EMIT writes (spec/45_container_codec.md R209). -/
def recordsImage (s : State) : List Byte := (presentBytes s).flatMap fun b => b :: leBytes 8 (ftGet s b).toNat

/-- The bytes EMIT appends (spec/45_container_codec.md R207, R208). -/
def emitImage (s : State) : List Byte :=
  leBytes 8 s.nchar.toNat ++
    if s.nchar = 0 then []
    else recordsImage s ++ leBytes 8 s.bitcnt.toNat ++ readBytes s.pbuf 0 (elen s)

/-- `records[i].byteValue` of the container in SRC (spec/20_memory.md R72). -/
def recByte (s : State) (i : Nat) : Byte := readByte s.src (8 + 9 * i)

/-- `records[i].frequency` of the container in SRC (spec/20_memory.md R72). -/
def recFreq (s : State) (i : Nat) : Nat := leNat (readBytes s.src (9 + 9 * i) 8)

/-- Record `i` has a byte value greater than the one before it and a non-zero frequency (spec/45_container_codec.md R216). -/
abbrev recGood (s : State) (i : Nat) : Prop :=
  (i ≠ 0 → (recByte s (i - 1)).toNat < (recByte s i).toNat) ∧ recFreq s i ≠ 0

/-- The sink's contents, where the spec defines them: after a command that ended in DONE (spec/60_exceptions.md R257). -/
def definedSink (s : State) : Option (List Byte) := if s.phase = phaseCode .done then some s.snk else none

/-! ## The tree -/

/-- Arena entry `k`. -/
def entry (s : State) (k : Nat) : Node := s.node[k]?.getD Node.dead

/-- Internal node `k` has `i` as a child. -/
abbrev isParent (s : State) (k i : Nat) : Prop :=
  (entry s k).leaf = false ∧ ((entry s k).zero.toNat = i ∨ (entry s k).one.toNat = i)

/-- The first `n` entries are leaves in ascending byte order (spec/41_tree_builder.md R142, R147). -/
abbrev leafRow (s : State) (n : Nat) : Prop :=
  (∀ k < n, (entry s k).leaf = true ∧ (entry s k).wt.toNat < 2 ^ 64) ∧
  (∀ k < n, ∀ j < k, (entry s j).sym.toNat < (entry s k).sym.toNat)

/-- What LEAVES leaves for MERGE: `n` leaves, all of them active (R142). -/
abbrev leavesReady (s : State) (n : Nat) : Prop :=
  n ≤ 256 ∧ s.nnode.toNat = n ∧ s.nact.toNat = n ∧ (∀ k < 511, activeAt s k = decide (k < n)) ∧ leafRow s n

/-- The arena holds a tree of `n` leaves (spec/41_tree_builder.md R145, R147, R150): internal nodes at `n .. 2n-2`, children before their parent, every node but the root
the child of exactly one internal node. -/
abbrev treeShape (s : State) (n : Nat) : Prop :=
  1 ≤ n ∧ n ≤ 256 ∧ s.nnode.toNat = 2 * n - 1 ∧ s.root.toNat = 2 * n - 2 ∧ s.rootValid = true ∧ leafRow s n ∧
  (∀ k < 2 * n - 1, n ≤ k →
    (entry s k).leaf = false ∧ (entry s k).zero.toNat < k ∧ (entry s k).one.toNat < k ∧ (entry s k).zero ≠ (entry s k).one) ∧
  (∀ i < 2 * n - 2, (List.range (2 * n - 1)).countP (fun k => decide (n ≤ k ∧ isParent s k i)) = 1)

/-- The node reached from `i` along a sequence of branch labels, if there is one (spec/42_code_table.md R161). -/
def follow (s : State) (i : NodeIdx) : List Bool → Option NodeIdx
  | [] => some i
  | v :: p => if (nodeAt s i).leaf then none else follow s (childOf (nodeAt s i) v) p

/-- The bits of symbols, each given as its path and the node it ends at, one after the other. -/
def symbolBits (ps : List (List Bool × NodeIdx)) : List Bool := ps.flatMap Prod.fst

/-- Every path in `ps` goes from ROOT to its node, and that node is a leaf (spec/44_bit_reader_decoder.md R194). -/
abbrev symbolsOk (s : State) (ps : List (List Bool × NodeIdx)) : Prop :=
  ∀ q ∈ ps, follow s s.root q.1 = some q.2 ∧ isLeaf s q.2 = true

/-- The payload lies inside SRC and begins with the bits `bs` (spec/30_encoding.md R96). -/
abbrev payloadBegins (s : State) (bs : List Bool) : Prop :=
  s.poff.toNat + s.paylen.toNat ≤ s.srcLen.toNat ∧ bs.length ≤ 8 * s.paylen.toNat ∧ bs.length < 2 ^ 64 ∧
  ∀ j (h : j < bs.length), bs[j] = payloadBitAt s j

/-- The first `n` leaves are those of the byte values with a non-zero FT entry. -/
abbrev leavesCover (s : State) (n : Nat) : Prop := ∀ b : Byte, ftGet s b ≠ 0 ↔ ∃ k ∈ List.range n, (entry s k).sym = b

/-! ## The invariants -/

/-- The byte memories are in canonical form. -/
abbrev memoryOk (s : State) : Prop := Memory.wf s.src ∧ Memory.wf s.pbuf

/-- The pairs (ERR, SUBERR) an abort can leave (spec/60_exceptions.md R252, R253). -/
abbrev legalError (e : BitVec 2) (c : BitVec 4) : Prop :=
  (e = 1 ∧ (c = 0 ∨ c = 9)) ∨ (e = 2 ∧ 1 ≤ c.toNat ∧ c.toNat ≤ 8 ∧ c.toNat ≠ 7) ∨ (e = 3 ∧ c = 0)

/-- The phases only COMPRESS enters (spec/46_commands_fsm.md R236). -/
def compressPhases : List (BitVec 4) := [.hist, .codes, .pack, .flush, .emit].map phaseCode

/-- The phases only DECOMPRESS enters (R236). -/
def decompressPhases : List (BitVec 4) := [.dhdr, .drecs, .dbits, .decode].map phaseCode

/-- PHASE is legal and agrees with MODE (R236); ERR, SUBERR and the counts say what R24, R25, R27, R28 and R288 say they do, and FormatError comes from DECOMPRESS alone (spec/60_exceptions.md R255); a running command's
source is within SRC_CAP (spec/20_memory.md R75), and between two phases it has appended nothing yet (spec/70_reset_and_hazards.md R292). -/
abbrev controlOk (s : State) : Prop :=
  s.phase.toNat ≤ 13 ∧
  (s.phase ∈ compressPhases → s.mode = .compress) ∧
  (s.phase ∈ decompressPhases → s.mode = .decompress) ∧
  (s.phase ≠ phaseCode .error → s.err = 0 ∧ s.subErr = 0) ∧
  (s.phase = phaseCode .error → legalError s.err s.subErr ∧ (s.err = 2 → s.mode = .decompress)) ∧
  (s.phase ≠ phaseCode .done → s.countIn = 0 ∧ s.countOut = 0) ∧
  (busy s = true → s.srcLen.toNat ≤ s.cfg.srcCap.toNat ∧ s.outcnt = 0)

/-- Every source byte has a non-zero FT entry. -/
abbrev sourceCounted (s : State) : Prop := ∀ i < s.srcLen.toNat, ftGet s (readByte s.src i) ≠ 0

/-- What each phase finds when it starts: the counts, the leaves, the tree, the codes, the packed bits and the bounds that the phases before it made
(spec/46_commands_fsm.md R241, spec/41_tree_builder.md R147, R150, spec/42_code_table.md R166, spec/43_bit_packer.md R181, R182, spec/45_container_codec.md R217). -/
abbrev phaseReady (s : State) : Prop :=
  (s.phase = phaseCode .drecs → 1 ≤ s.nchar.toNat ∧ s.nchar.toNat ≤ 256) ∧
  (s.phase = phaseCode .leaves → s.mode = .decompress → 1 ≤ (presentBytes s).length) ∧
  (s.phase = phaseCode .merge →
    ∃ n ∈ List.range 257, leavesReady s n ∧ leavesCover s n ∧
      (s.mode = .decompress → 1 ≤ n) ∧ (s.mode = .compress → s.nchar.toNat = n)) ∧
  (s.phase = phaseCode .codes ∨ s.phase = phaseCode .dbits ∨ s.phase = phaseCode .decode →
    ∃ n ∈ List.range 257, treeShape s n ∧ leavesCover s n) ∧
  (s.phase = phaseCode .pack → ∀ b : Byte, ftGet s b ≠ 0 → hasCode s b = true) ∧
  (s.phase = phaseCode .leaves ∨ s.phase = phaseCode .merge ∨ s.phase = phaseCode .codes ∨ s.phase = phaseCode .pack →
    s.mode = .compress → sourceCounted s) ∧
  (s.phase = phaseCode .flush →
    8 * s.plen.toNat + s.nb.toNat = s.bitcnt.toNat ∧ s.bitcnt.toNat ≤ 255 * s.srcLen.toNat) ∧
  (s.phase = phaseCode .emit →
    s.nchar = 0 ∨ (s.plen.toNat = s.bitcnt.toNat / 8 + 1 ∧ s.bitcnt.toNat ≤ 255 * s.srcLen.toNat)) ∧
  (s.phase = phaseCode .decode →
    s.paylen.toNat = ceil8 s.bitcnt.toNat ∧ s.poff.toNat + s.paylen.toNat ≤ s.srcLen.toNat)

/-- The invariant of the engine. -/
abbrev engineOk (s : State) : Prop := controlOk s ∧ phaseReady s

/-! ## Aborts and runs -/

/-- `t` is a state in which a command that had reached `s` was aborted (spec/60_exceptions.md R256): the counts are 0, PHASE is ERROR, and of the sink only the bytes the host had
before the command are known. That those bytes stay is the model's inference from spec/20_memory.md R62 (DEDUCED, unsafe, log 6); R257 leaves the sink unspecified. -/
abbrev abortedFrom (s t : State) : Prop :=
  t.phase = phaseCode .error ∧ t.countIn = 0 ∧ t.countOut = 0 ∧
  ∃ more, t.snk = s.snk.take (s.snk.length - s.outcnt.toNat) ++ more

/-- The abort left one of the pairs (ERR, SUBERR) in `codes` (spec/60_exceptions.md R253). -/
abbrev abortedWithin (codes : List (BitVec 2 × BitVec 4)) (s t : State) : Prop := (t.err, t.subErr) ∈ codes ∧ abortedFrom s t

/-- From `s` to `t` nothing was appended, nothing failed, and the result registers are as they were (spec/70_reset_and_hazards.md R288). -/
abbrev wentOn (s t : State) : Prop :=
  t.snk = s.snk ∧ t.draws = s.draws ∧ t.err = s.err ∧ t.subErr = s.subErr ∧ t.countIn = s.countIn ∧ t.countOut = s.countOut

/-- Steps until the engine is not BUSY, at most `n`. -/
def runCommand : Nat → State → Option State
  | 0, _ => none
  | n + 1, s =>
    match step s with
    | .next t => if busy t then runCommand n t else some t
    | .fault _ => none
    | .refused _ => none

end Sys2Proof.Safety
end

