-- ==== Sys2Proof/Certificates/Slice0/Obligations.lean ====
section
/-! DEFINITION. The statements for the provers. Each docstring names the rule of spec/ it formalises. -/

open Sys2Proof Sys2Proof.Machine Sys2Proof.Safety

/-! ## Commands -/

/-- 46_commands_fsm.md R232, R235, R237 to R239: NOP and the reserved command change no state, in any phase; in IDLE, DONE and ERROR the engine does nothing. -/
def Obligations.NoEffectOperations : Prop :=
  ∀ s : State, exec .nop s = .next s ∧ exec .cmdReserved3 s = .next s ∧
    exec .idle s = .next s ∧ exec .done s = .next s ∧ exec .error s = .next s

/-- 30_encoding.md R98, 93_implementation_defined.md U7: PHASE 14 and 15 have no transition. -/
def Obligations.UnreachablePhasesStop : Prop :=
  ∀ s : State, exec .phaseUnreachable14 s = .fault (.unreachablePhase 14) ∧
    exec .phaseUnreachable15 s = .fault (.unreachablePhase 15)

/-- 46_commands_fsm.md R231, 10_state.md R22: a write to CMD while BUSY is ignored whatever its value; otherwise the command `v[1:0]` is carried out. -/
def Obligations.CmdWriteAcceptedOrIgnored : Prop :=
  ∀ (s : State) (v : Nat) (rest : List HostMove), s.host = .regWrite 0 v :: rest →
    (busy s = true → step s = .next { s with host := rest }) ∧
    (busy s = false → step s = exec (decodeCmd (BitVec.ofNat 2 (v % 4))) { s with host := rest })

/-- 46_commands_fsm.md R233, R234: COMPRESS and DECOMPRESS, accepted with a usable source within the capacity, clear the result registers and go to HIST and to DHDR. -/
def Obligations.CommandsStart : Prop :=
  ∀ s : State, busy s = false → srcSample s 0 = true → s.srcLen.toNat ≤ s.cfg.srcCap.toNat →
    exec .compress s = .next { s with
      err := 0, subErr := 0, countIn := 0, countOut := 0, outcnt := 0, mode := .compress, phase := phaseCode .hist,
      srcOkNext := s.srcOkNext.tail } ∧
    exec .decompress s = .next { s with
      err := 0, subErr := 0, countIn := 0, countOut := 0, outcnt := 0, mode := .decompress, phase := phaseCode .dhdr,
      srcOkNext := s.srcOkNext.tail }

/-- 60_exceptions.md R253, R258 (a): at acceptance `SRC_OK = 0` gives 1/0, and only then `SRC_LEN > SRC_CAP` gives 1/9; the sink is
unspecified (R257), but for the host's earlier bytes, whose staying is the model's inference (log 6, DEDUCED from 20_memory.md R62). -/
def Obligations.StartFailures : Prop :=
  ∀ (s : State) (i : Instr), i = .compress ∨ i = .decompress → busy s = false →
    (srcSample s 0 = false ∨ s.cfg.srcCap.toNat < s.srcLen.toNat) →
    ∃ t, exec i s = .next t ∧ t.phase = phaseCode .error ∧ t.err = 1 ∧
      t.subErr = (if srcSample s 0 = false then 0 else 9) ∧ t.countIn = 0 ∧ t.countOut = 0 ∧
      ∃ more, t = { s with
        err := 1, subErr := t.subErr, countIn := 0, countOut := 0, outcnt := 0, phase := phaseCode .error,
        mode := (if i = .compress then Mode.compress else Mode.decompress), srcOkNext := s.srcOkNext.tail,
        snk := s.snk ++ more, draws := s.draws + 1 }

/-! ## Histogram -/

/-- 40_histogram.md R122, the result as a function: every entry of FT counts the source bytes of its value. -/
def Obligations.HistCounts : Prop :=
  ∀ s : State, srcReady s s.srcLen.toNat →
    exec .hist s = .next { s with
      ft := Vector.ofFn fun b : Fin 256 => BitVec.ofNat 64 ((sourceBytes s).count (BitVec.ofNat 8 b.val))
      idx := s.srcLen, phase := phaseCode .leaves, srcOkNext := s.srcOkNext.drop s.srcLen.toNat }

/-- 40_histogram.md R123: after HIST the entries of FT sum to SRC_LEN. -/
def Obligations.HistSumIsLength : Prop :=
  ∀ s : State, srcReady s s.srcLen.toNat →
    ∃ t, exec .hist s = .next t ∧ (t.ft.toList.map BitVec.toNat).sum = s.srcLen.toNat

/-- 40_histogram.md R122, 60_exceptions.md R253: HIST aborts with 1/0 at the first read that finds `SRC_OK = 0`; the bytes before it were counted.
That the host's bytes in the sink stay is the model's inference (`abortedFrom`, log 6, DEDUCED from 20_memory.md R62). -/
def Obligations.HistStopsAtBadSample : Prop :=
  ∀ (s : State) (k : Nat), k < s.srcLen.toNat → srcReady s k → srcSample s k = false →
    ∃ t, exec .hist s = .next t ∧ t.err = 1 ∧ t.subErr = 0 ∧ abortedFrom s t ∧ t.idx.toNat = k ∧
      ∀ b : Byte, ftGet t b = BitVec.ofNat 64 ((readBytes s.src 0 k).count b)

/-- 40_histogram.md R121, R124: HIST.CLR clears every entry of FT; HIST.LOAD writes one. -/
def Obligations.HistClrAndLoad : Prop :=
  (∀ (s : State) (b : Byte), ftGet (histClr s) b = 0) ∧
  ∀ (s : State) (b c : Byte) (f : Word64), ftGet (histLoad b f s) c = if c = b then f else ftGet s c

/-! ## Tree builder -/

/-- 41_tree_builder.md R142: LEAVES makes one active leaf per byte value with a non-zero FT entry, in ascending order, and in COMPRESS counts them into NCHAR. -/
def Obligations.LeavesBuildsRow : Prop :=
  ∀ s : State, ∃ t, exec .leaves s = .next t ∧
    t = { s with
      node := t.node, active := t.active, nnode := BitVec.ofNat 9 (presentBytes s).length,
      nact := BitVec.ofNat 9 (presentBytes s).length, rootValid := false, symi := 256, phase := phaseCode .merge,
      nchar := (if s.mode = .compress then BitVec.ofNat 9 (presentBytes s).length else s.nchar) } ∧
    (∀ k (h : k < (presentBytes s).length),
      entry t k = { leaf := true, sym := (presentBytes s)[k], wt := (ftGet s (presentBytes s)[k]).setWidth 72, zero := 0, one := 0 }) ∧
    (∀ k, (presentBytes s).length ≤ k → entry t k = entry s k) ∧
    (∀ k, activeAt t k = decide (k < (presentBytes s).length))

/-- 41_tree_builder.md R141: the priority order is (weight, index) and a strict total order on the arena's indexes. -/
def Obligations.PriorityIsStrictTotalOrder : Prop :=
  ∀ s : State,
    (∀ i j, precedes s i j = true ↔ ((entry s i).wt < (entry s j).wt ∨ ((entry s i).wt = (entry s j).wt ∧ i < j))) ∧
    (∀ i, precedes s i i = false) ∧
    (∀ i j k, precedes s i j = true → precedes s j k = true → precedes s i k = true) ∧
    (∀ i j, i ≠ j → precedes s i j = true ∨ precedes s j i = true)

/-- 41_tree_builder.md R143: RemoveMin returns the active node that precedes every other, and takes it out of the active set. -/
def Obligations.RemoveMinTakesLeast : Prop :=
  ∀ s : State, (∃ i, activeAt s i = true) →
    ∃ m t, removeMin s = .ok m t ∧ activeAt s m.toNat = true ∧
      (∀ j, activeAt s j = true → j ≠ m.toNat → precedes s m.toNat j = true) ∧
      t = { s with active := t.active, nact := s.nact - 1 } ∧
      (∀ j, activeAt t j = (activeAt s j && decide (j ≠ m.toNat)))

/-- 41_tree_builder.md R144, R145, R147, R148, R150: from `n` active leaves MERGE builds the tree of `n` leaves, whose internal weights are exact sums with the lighter child
on the zero-branch and whose root alone is active, or no tree and no active node when `n = 0`, and goes where MODE and ROOT_VALID say. -/
def Obligations.MergeBuildsTree : Prop :=
  ∀ (s : State) (n : Nat), leavesReady s n →
    ∃ t, exec .merge s = .next t ∧
      t = { s with
        node := t.node, active := t.active, nnode := t.nnode, nact := t.nact, root := t.root, rootValid := t.rootValid,
        phase := (match s.mode with
          | .decompress => phaseCode .dbits
          | .compress => if n = 0 then phaseCode .emit else phaseCode .codes) } ∧
      (n = 0 → t.rootValid = false ∧ t.node = s.node ∧ t.nnode = 0 ∧ t.nact = 0 ∧ ∀ k, activeAt t k = false) ∧
      (1 ≤ n → treeShape t n ∧ t.nact = 1 ∧ (∀ k, activeAt t k = decide (k = t.root.toNat)) ∧ (∀ k < n, entry t k = entry s k) ∧
        ∀ k, n ≤ k → k < 2 * n - 1 →
          (entry t k).wt.toNat = (entry t (entry t k).zero.toNat).wt.toNat + (entry t (entry t k).one.toNat).wt.toNat ∧
          precedes t (entry t k).zero.toNat (entry t k).one.toNat = true)

/-- 41_tree_builder.md R149: the arena and ROOT are a function of FT. -/
def Obligations.TreeIsFunctionOfCounts : Prop :=
  ∀ s s' t t' u u' : State, s.ft = s'.ft →
    exec .leaves s = .next t → exec .merge t = .next u → exec .leaves s' = .next t' → exec .merge t' = .next u' →
    u.nnode = u'.nnode ∧ u.rootValid = u'.rootValid ∧ (u.rootValid = true → u.root = u'.root) ∧
    ∀ k < u.nnode.toNat, entry u k = entry u' k

/-- 41_tree_builder.md R151: the weights of the internal nodes do not fall in the order of their creation. -/
def Obligations.InternalWeightsRise : Prop :=
  ∀ (s t : State) (n : Nat), leavesReady s n → exec .merge s = .next t →
    ∀ k, n ≤ k → k + 1 < 2 * n - 1 → (entry t k).wt ≤ (entry t (k + 1)).wt

/-! ## Code table -/

/-- 42_code_table.md R162: a root that is a leaf gets the one-bit code "0", and no other entry is valid. -/
def Obligations.CodesLoneLeaf : Prop :=
  ∀ s : State, isLeaf s s.root = true →
    ∃ t, exec .codes s = .next t ∧ t = { s with ct := t.ct, phase := phaseCode .pack } ∧
      ctGet t (nodeAt s s.root).sym = { valid := true, len := 1, bits := 0 } ∧
      codeString (ctGet t (nodeAt s s.root).sym) = [false] ∧
      ∀ b : Byte, b ≠ (nodeAt s s.root).sym → hasCode t b = false

/-- 42_code_table.md R161: in a tree of two leaves or more, the code of a leaf's byte value is the path of branch labels from ROOT to it, and a byte value without a leaf has no code. -/
def Obligations.CodesArePaths : Prop :=
  ∀ (s : State) (n : Nat), treeShape s n → 2 ≤ n →
    ∃ t, exec .codes s = .next t ∧
      t = { s with ct := t.ct, stk := t.stk, sp := t.sp, path := t.path, phase := phaseCode .pack } ∧
      (∀ (p : List Bool) (l : NodeIdx), follow s s.root p = some l → isLeaf s l = true →
        hasCode t (nodeAt s l).sym = true ∧ codeString (ctGet t (nodeAt s l).sym) = p) ∧
      (∀ k < n, ∃ p, follow s s.root p = some (BitVec.ofNat 9 k)) ∧
      (∀ b : Byte, (∀ k < n, (entry s k).sym ≠ b) → hasCode t b = false)

/-- 42_code_table.md R164: no code is a prefix of another code. -/
def Obligations.CodesArePrefixFree : Prop :=
  ∀ (s t : State) (n : Nat), treeShape s n → exec .codes s = .next t →
    ∀ b c : Byte, hasCode t b = true → hasCode t c = true → b ≠ c → ¬ codeString (ctGet t b) <+: codeString (ctGet t c)

/-- 42_code_table.md R165, R166: after CODES a byte value has a code exactly when its FT entry is not 0, the number of codes is the number of leaves, and a code is 1 to 255 symbols long. -/
def Obligations.ValidCodesArePresentBytes : Prop :=
  ∀ (s t : State) (n : Nat), treeShape s n → leavesCover s n → exec .codes s = .next t →
    (∀ b : Byte, hasCode t b = true ↔ ftGet s b ≠ 0) ∧
    (((List.range 256).map (BitVec.ofNat 8)).filter (hasCode t)).length = n ∧
    ∀ b : Byte, hasCode t b = true → 1 ≤ (codeString (ctGet t b)).length ∧ (codeString (ctGet t b)).length ≤ 255

/-! ## Bit packer -/

/-- 43_bit_packer.md R176, R177: BP.INIT; BP.PUTBIT shifts the bit in at bit 0 of ACC and stores the byte at PBUF[PLEN] when it is the eighth. -/
def Obligations.BpInitAndPutBit : Prop :=
  (∀ s : State, bpInit s = { s with acc := 0, nb := 0, bitcnt := 0, plen := 0 }) ∧
  ∀ (s : State) (v : Bool),
    (s.nb ≠ 7 → putBit v s = { s with acc := BitVec.ofNat 8 (2 * s.acc.toNat + v.toNat), nb := s.nb + 1 }) ∧
    (s.nb = 7 →
      putBit v s = { s with pbuf := (putBit v s).pbuf, plen := s.plen + 1, nb := 0, acc := 0 } ∧
      ∀ a, readByte (putBit v s).pbuf a =
        if a = s.plen.toNat then BitVec.ofNat 8 (2 * s.acc.toNat + v.toNat) else readByte s.pbuf a)

/-- 43_bit_packer.md R177, R181, R68 of 20_memory.md: the bits put into the packer are kept in order, most significant bit first in each byte, `8*PLEN + NB` of them. -/
def Obligations.PutBitsKeepsOrder : Prop :=
  ∀ (s : State) (vs : List Bool), s.plen.toNat + vs.length < 2 ^ 64 → packedBits (putBits vs s) = packedBits s ++ vs

/-- 43_bit_packer.md R179: PACK puts the codes of the source bytes one after the other, and BITCNT is the number of bits. -/
def Obligations.PackAppendsCodes : Prop :=
  ∀ s : State, srcReady s s.srcLen.toNat → s.srcLen.toNat ≤ s.cfg.srcCap.toNat →
    (∀ b ∈ sourceBytes s, hasCode s b = true) →
    ∃ t, exec .pack s = .next t ∧
      t = { s with
        acc := t.acc, nb := t.nb, bitcnt := t.bitcnt, pbuf := t.pbuf, plen := t.plen, idx := s.srcLen,
        phase := phaseCode .flush, srcOkNext := s.srcOkNext.drop s.srcLen.toNat } ∧
      packedBits t = codedBits s (sourceBytes s) ∧
      t.bitcnt.toNat = ((sourceBytes s).map fun b => (ctGet s b).len.toNat).sum

/-- 43_bit_packer.md R179, R183, 60_exceptions.md R253, 93_implementation_defined.md U6: the first source byte with no code is the fault that names PACK (log 11), when no read before it aborted; the
first read that finds `SRC_OK = 0` aborts with 1/0, when every byte before it has a code. That the host's bytes in the sink stay is the model's inference (`abortedFrom`, log 6, DEDUCED from
20_memory.md R62). -/
def Obligations.PackStopsWithoutCode : Prop :=
  ∀ (s : State) (k : Nat), k < s.srcLen.toNat → srcReady s k → (∀ j < k, hasCode s (readByte s.src j) = true) →
    (srcSample s k = true → hasCode s (readByte s.src k) = false → exec .pack s = .fault .packNoCode) ∧
    (srcSample s k = false → s.srcLen.toNat ≤ s.cfg.srcCap.toNat →
      ∃ t, exec .pack s = .next t ∧ t.err = 1 ∧ t.subErr = 0 ∧ abortedFrom s t ∧ t.idx.toNat = k ∧
        packedBits t = codedBits s (readBytes s.src 0 k))

/-- 43_bit_packer.md R180: FLUSH puts one zero bit and then zero bits to the byte boundary; BITCNT is unchanged, and the one byte it completes goes to PBUF[PLEN]. -/
def Obligations.FlushPads : Prop :=
  ∀ s : State, ∃ t, exec .flush s = .next t ∧
    t = { s with pbuf := t.pbuf, plen := s.plen + 1, nb := 0, acc := 0, phase := phaseCode .emit } ∧
    (∀ a, readByte t.pbuf a = if a = s.plen.toNat then s.acc <<< (8 - s.nb.toNat) else readByte s.pbuf a) ∧
    (s.plen.toNat + 1 < 2 ^ 64 → packedBits t = packedBits s ++ List.replicate (8 - s.nb.toNat) false)

/-- 43_bit_packer.md R181, R182: after PACK and FLUSH, `PLEN = floor(BITCNT/8) + 1`, and the pack buffer fits. -/
def Obligations.PackBufferFits : Prop :=
  ∀ s t u : State, s.srcLen.toNat ≤ s.cfg.srcCap.toNat → exec .pack s = .next t → t.phase = phaseCode .flush →
    exec .flush t = .next u →
    u.nb = 0 ∧ u.plen.toNat = u.bitcnt.toNat / 8 + 1 ∧ u.plen.toNat = ceil8 (u.bitcnt.toNat + 1) ∧
    u.bitcnt.toNat ≤ 255 * s.srcLen.toNat ∧ u.plen.toNat ≤ s.cfg.pbufCap

/-! ## Container codec, writing -/

/-- 45_container_codec.md R207 to R211, R213, 46_commands_fsm.md R240: EMIT appends the container and goes to DONE with the counts written; with NCHAR = 0 the container is
exactly eight zero bytes. -/
def Obligations.EmitWritesContainer : Prop :=
  (∀ s : State, s.nchar = 0 → emitImage s = [0, 0, 0, 0, 0, 0, 0, 0]) ∧
  ∀ s : State, snkReady s (emitImage s).length →
    exec .emit s = .next { s with
      snk := s.snk ++ emitImage s
      outcnt := s.outcnt + BitVec.ofNat 64 (emitImage s).length
      snkOkNext := s.snkOkNext.drop (emitImage s).length
      symi := if s.nchar = 0 then s.symi else 256
      emi := if s.nchar = 0 then s.emi else BitVec.ofNat 64 (elen s)
      countIn := s.srcLen
      countOut := s.outcnt + BitVec.ofNat 64 (emitImage s).length
      phase := phaseCode .done }

/-- 45_container_codec.md R211, R213, R214: EMIT's output is `CLEN(NCHAR, BITCNT)` bytes, and one more when BITCNT is a multiple of 8 and EMIT_PAD_BYTE is set. -/
def Obligations.EmitLength : Prop :=
  ∀ s : State, s.nchar.toNat = (presentBytes s).length → s.plen.toNat = s.bitcnt.toNat / 8 + 1 →
    (emitImage s).length = clen s.nchar.toNat s.bitcnt.toNat +
      (if s.nchar ≠ 0 ∧ s.bitcnt.toNat % 8 = 0 ∧ s.cfg.emitPadByte = true then 1 else 0)

/-- 20_memory.md R66, 60_exceptions.md R253, R257: EMIT aborts with 3/0 at the first append that finds `SNK_OK = 0`. The sink is then
unspecified (R257), but for the host's earlier bytes, whose staying is the model's inference (`abortedFrom`, log 6, DEDUCED from 20_memory.md R62). -/
def Obligations.EmitStopsAtBadSample : Prop :=
  ∀ (s : State) (k : Nat), k < (emitImage s).length → snkReady s k → snkSample s k = false →
    s.outcnt.toNat + (emitImage s).length < 2 ^ 64 →
    ∃ t, exec .emit s = .next t ∧ t.err = 3 ∧ t.subErr = 0 ∧ abortedFrom s t

/-- 20_memory.md R75, 44_bit_reader_decoder.md R197: when the invariant holds, EMIT and DECODE answer a next state whose OUTCNT has not wrapped: it is within R75's bound, DECODE has appended at most BITCNT
bytes, and at DONE it is the number of bytes by which the sink grew. -/
def Obligations.OutputCountFits : Prop :=
  ∀ s : State, engineOk s →
    (s.phase = phaseCode .emit →
      s.outcnt.toNat + (emitImage s).length ≤ 2321 + 32 * s.srcLen.toNat ∧
      ∃ t, exec .emit s = .next t ∧ s.outcnt.toNat ≤ t.outcnt.toNat ∧
        t.outcnt.toNat ≤ s.outcnt.toNat + (emitImage s).length ∧
        (t.phase = phaseCode .done → t.snk.length + s.outcnt.toNat = s.snk.length + t.outcnt.toNat)) ∧
    (s.phase = phaseCode .decode →
      s.outcnt.toNat + s.bitcnt.toNat ≤ 8 * s.srcLen.toNat ∧ 8 * s.paylen.toNat ≤ 8 * s.srcLen.toNat ∧
      8 * s.srcLen.toNat < 2 ^ 59 ∧
      ∃ t, exec .decode s = .next t ∧ s.outcnt.toNat ≤ t.outcnt.toNat ∧
        t.outcnt.toNat ≤ s.outcnt.toNat + s.bitcnt.toNat ∧
        (t.phase = phaseCode .done → t.snk.length + s.outcnt.toNat = s.snk.length + t.outcnt.toNat))

/-! ## Memory primitives -/

/-- 20_memory.md R64: MemRead samples SRC_OK once, then checks the bounds without wrap, then returns the bytes little-endian. -/
def Obligations.MemReadCases : Prop :=
  ∀ (s : State) (a n : Nat) (c : SubCause),
    (srcSample s 0 = false →
      memRead a n c s = .abort (takeAbort .sourceUnavailable .none { s with srcOkNext := s.srcOkNext.tail })) ∧
    (srcSample s 0 = true → s.srcLen.toNat < a + n →
      memRead a n c s = .abort (takeAbort .formatError c { s with srcOkNext := s.srcOkNext.tail })) ∧
    (srcSample s 0 = true → a + n ≤ s.srcLen.toNat →
      memRead a n c s = .ok ((List.range n).map fun k => 256 ^ k * (readByte s.src (a + k)).toNat).sum
        { s with srcOkNext := s.srcOkNext.tail })

/-- 20_memory.md R66: MemWrite appends the bytes of `v`, least significant first, and samples SNK_OK before each; a sample of 0 aborts with the bytes before it appended and counted. -/
def Obligations.MemWriteCases : Prop :=
  ∀ (s : State) (n v : Nat),
    (snkReady s n →
      memWrite n v s = .ok () { s with
        snk := s.snk ++ (List.range n).map fun k => BitVec.ofNat 8 (v / 256 ^ k)
        outcnt := s.outcnt + BitVec.ofNat 64 n
        snkOkNext := s.snkOkNext.drop n }) ∧
    (∀ k < n, snkReady s k → snkSample s k = false →
      memWrite n v s = .abort (takeAbort .sinkError .none { s with
        snk := s.snk ++ (List.range k).map fun j => BitVec.ofNat 8 (v / 256 ^ j)
        outcnt := s.outcnt + BitVec.ofNat 64 k
        snkOkNext := s.snkOkNext.drop (k + 1) }))

/-! ## Container codec, reading -/

/-- 45_container_codec.md R215: DHDR, in the order of its checks. In the aborts, that the host's bytes in the
sink stay is the model's inference (`abortedFrom`, log 6, DEDUCED from 20_memory.md R62). -/
def Obligations.DhdrCases : Prop :=
  ∀ s : State,
    (srcSample s 0 = false → ∃ t, exec .dhdr s = .next t ∧ t.err = 1 ∧ t.subErr = 0 ∧ abortedFrom s t) ∧
    (srcSample s 0 = true → s.srcLen.toNat < 8 → ∃ t, exec .dhdr s = .next t ∧ t.err = 2 ∧ t.subErr = 1 ∧ abortedFrom s t) ∧
    (srcSample s 0 = true → 8 ≤ s.srcLen.toNat → leNat (readBytes s.src 0 8) = 0 →
      exec .dhdr s = .next { s with
        countIn := 8, countOut := s.outcnt, phase := phaseCode .done, srcOkNext := s.srcOkNext.tail }) ∧
    (srcSample s 0 = true → 8 ≤ s.srcLen.toNat → 256 < leNat (readBytes s.src 0 8) →
      ∃ t, exec .dhdr s = .next t ∧ t.err = 2 ∧ t.subErr = 2 ∧ abortedFrom s t) ∧
    (srcSample s 0 = true → 8 ≤ s.srcLen.toNat → 1 ≤ leNat (readBytes s.src 0 8) → leNat (readBytes s.src 0 8) ≤ 256 →
      exec .dhdr s = .next { s with
        nchar := BitVec.ofNat 9 (leNat (readBytes s.src 0 8)), phase := phaseCode .drecs, srcOkNext := s.srcOkNext.tail })

/-- 45_container_codec.md R216: DRECS loads the records when all of them are inside SRC and good; every other entry of FT is 0. -/
def Obligations.DrecsLoads : Prop :=
  ∀ s : State, srcReady s (2 * s.nchar.toNat) → 8 + 9 * s.nchar.toNat ≤ s.srcLen.toNat → (∀ i < s.nchar.toNat, recGood s i) →
    ∃ t, exec .drecs s = .next t ∧
      t = { s with
        ft := t.ft, reci := s.nchar, prev := t.prev, phase := phaseCode .leaves,
        srcOkNext := s.srcOkNext.drop (2 * s.nchar.toNat) } ∧
      (∀ i < s.nchar.toNat, ftGet t (recByte s i) = BitVec.ofNat 64 (recFreq s i)) ∧
      (∀ b : Byte, (∀ i < s.nchar.toNat, recByte s i ≠ b) → ftGet t b = 0) ∧
      (presentBytes t).length = s.nchar.toNat

/-- 45_container_codec.md R216, 60_exceptions.md R253, R258 (b), (e): the first record that is not wholly inside SRC gives 2/3, the first that is inside and not good gives 2/4, and the first read that finds
`SRC_OK = 0` gives 1/0: sample `2i` is that of record `i`'s byte value, sample `2i + 1` that of its frequency. In the aborts, that the host's bytes in the
sink stay is the model's inference (`abortedFrom`, log 6, DEDUCED from 20_memory.md R62). -/
def Obligations.DrecsRejects : Prop :=
  ∀ (s : State) (i : Nat), i < s.nchar.toNat → srcReady s (2 * i) → (i ≠ 0 → 8 + 9 * i ≤ s.srcLen.toNat) →
    (∀ j < i, recGood s j) →
    (srcSample s (2 * i) = true → (8 + 9 * i + 1 ≤ s.srcLen.toNat → srcSample s (2 * i + 1) = true) →
      (s.srcLen.toNat < 8 + 9 * i + 9 ∨ ¬ recGood s i) →
      ∃ t, exec .drecs s = .next t ∧ t.err = 2 ∧
        t.subErr = (if s.srcLen.toNat < 8 + 9 * i + 9 then 3 else 4) ∧ abortedFrom s t) ∧
    (srcSample s (2 * i) = false ∨ (8 + 9 * i + 1 ≤ s.srcLen.toNat ∧ srcSample s (2 * i + 1) = false) →
      ∃ t, exec .drecs s = .next t ∧ t.err = 1 ∧ t.subErr = 0 ∧ abortedFrom s t)

/-- 45_container_codec.md R217: DBITS, in the order of its checks. In the aborts, that the host's bytes in the
sink stay is the model's inference (`abortedFrom`, log 6, DEDUCED from 20_memory.md R62). -/
def Obligations.DbitsCases : Prop :=
  ∀ s : State,
    (srcSample s 0 = false → ∃ t, exec .dbits s = .next t ∧ t.err = 1 ∧ t.subErr = 0 ∧ abortedFrom s t) ∧
    (srcSample s 0 = true → s.srcLen.toNat < 16 + 9 * s.nchar.toNat →
      ∃ t, exec .dbits s = .next t ∧ t.err = 2 ∧ t.subErr = 5 ∧ abortedFrom s t) ∧
    (srcSample s 0 = true → 16 + 9 * s.nchar.toNat ≤ s.srcLen.toNat →
      s.srcLen.toNat < 16 + 9 * s.nchar.toNat + ceil8 (leNat (readBytes s.src (8 + 9 * s.nchar.toNat) 8)) →
      ∃ t, exec .dbits s = .next t ∧ t.err = 2 ∧ t.subErr = 6 ∧ abortedFrom s t) ∧
    (srcSample s 0 = true →
      16 + 9 * s.nchar.toNat + ceil8 (leNat (readBytes s.src (8 + 9 * s.nchar.toNat) 8)) ≤ s.srcLen.toNat →
      ∃ t, exec .dbits s = .next t ∧
        t = { s with
          bitcnt := t.bitcnt, paylen := t.paylen, poff := t.poff, phase := phaseCode .decode,
          srcOkNext := s.srcOkNext.tail } ∧
        t.bitcnt.toNat = leNat (readBytes s.src (8 + 9 * s.nchar.toNat) 8) ∧
        t.paylen.toNat = ceil8 t.bitcnt.toNat ∧ t.poff.toNat = 16 + 9 * s.nchar.toNat)

/-! ## Bit reader and decoder -/

/-- 44_bit_reader_decoder.md R191, 60_exceptions.md R258 (c): BR.GETBIT, the past-payload check first; bit `7 - (CUR mod 8)` of the payload byte `floor(CUR/8)`. -/
def Obligations.GetBitCases : Prop :=
  ∀ s : State,
    (8 * s.paylen.toNat ≤ s.cur.toNat → getBit s = .abort (takeAbort .formatError .pastPayload s)) ∧
    (s.cur.toNat < 8 * s.paylen.toNat → srcSample s 0 = false →
      getBit s = .abort (takeAbort .sourceUnavailable .none { s with srcOkNext := s.srcOkNext.tail })) ∧
    (s.cur.toNat < 8 * s.paylen.toNat → srcSample s 0 = true → s.poff.toNat + s.cur.toNat / 8 < s.srcLen.toNat →
      getBit s = .ok ((readByte s.src (s.poff.toNat + s.cur.toNat / 8)).getLsbD (7 - s.cur.toNat % 8))
        { s with cur := s.cur + 1, srcOkNext := s.srcOkNext.tail })

/-- 44_bit_reader_decoder.md R193, 46_commands_fsm.md R240: with a lone leaf DECODE appends BITCNT copies of its byte and reads no payload bit. -/
def Obligations.DecodeLoneLeaf : Prop :=
  ∀ s : State, isLeaf s s.root = true → snkReady s s.bitcnt.toNat →
    exec .decode s = .next { s with
      snk := s.snk ++ List.replicate s.bitcnt.toNat (nodeAt s s.root).sym
      outcnt := s.outcnt + s.bitcnt
      snkOkNext := s.snkOkNext.drop s.bitcnt.toNat
      cur := s.bitcnt
      countIn := BitVec.ofNat 64 (clen s.nchar.toNat s.bitcnt.toNat)
      countOut := s.outcnt + s.bitcnt
      phase := phaseCode .done }

/-- 44_bit_reader_decoder.md R192, R194, R196: when the payload's bits are the paths of leaves, the last one begun before BITCNT and none begun after, DECODE appends those leaves' bytes. -/
def Obligations.DecodeSymbols : Prop :=
  ∀ (s : State) (ps : List (List Bool × NodeIdx)), isLeaf s s.root = false → symbolsOk s ps →
    (∀ k < ps.length, (symbolBits (ps.take k)).length < s.bitcnt.toNat) → s.bitcnt.toNat ≤ (symbolBits ps).length →
    payloadBegins s (symbolBits ps) → srcReady s (symbolBits ps).length → snkReady s ps.length →
    ∃ t, exec .decode s = .next t ∧
      t = { s with
        snk := s.snk ++ ps.map fun q => (nodeAt s q.2).sym
        outcnt := s.outcnt + BitVec.ofNat 64 ps.length
        srcOkNext := s.srcOkNext.drop (symbolBits ps).length
        snkOkNext := s.snkOkNext.drop ps.length
        cur := BitVec.ofNat 64 (symbolBits ps).length
        nodep := t.nodep
        countIn := BitVec.ofNat 64 (clen s.nchar.toNat s.bitcnt.toNat)
        countOut := s.outcnt + BitVec.ofNat 64 ps.length
        phase := phaseCode .done }

/-- 44_bit_reader_decoder.md R191, R195, R196, 60_exceptions.md R253, R258 (c), (g): how DECODE aborts after complete symbols `ps`. Within the path `p` of the next symbol, 2/8 when the bit needed is at `8*PAYLEN`, and
1/0 when its read finds `SRC_OK = 0`; after the bits of the next symbol `q`, and with a lone leaf, 3/0 when the append finds `SNK_OK = 0`. In the aborts, that the host's bytes in the
sink stay is the model's inference (`abortedFrom`, log 6, DEDUCED from 20_memory.md R62). -/
def Obligations.DecodePastPayload : Prop :=
  (∀ (s : State) (ps : List (List Bool × NodeIdx)), isLeaf s s.root = false → symbolsOk s ps →
    (symbolBits ps).length < s.bitcnt.toNat → snkReady s ps.length → s.outcnt.toNat + ps.length < 2 ^ 64 →
    (∀ (p : List Bool) (i : NodeIdx), follow s s.root p = some i → isLeaf s i = false →
      payloadBegins s (symbolBits ps ++ p) → srcReady s (symbolBits ps ++ p).length →
      ((symbolBits ps ++ p).length = 8 * s.paylen.toNat →
        ∃ t, exec .decode s = .next t ∧ t.err = 2 ∧ t.subErr = 8 ∧ abortedFrom s t) ∧
      ((symbolBits ps ++ p).length < 8 * s.paylen.toNat → srcSample s (symbolBits ps ++ p).length = false →
        ∃ t, exec .decode s = .next t ∧ t.err = 1 ∧ t.subErr = 0 ∧ abortedFrom s t)) ∧
    (∀ q : List Bool × NodeIdx, symbolsOk s [q] → payloadBegins s (symbolBits ps ++ q.1) →
      srcReady s (symbolBits ps ++ q.1).length → snkSample s ps.length = false →
      ∃ t, exec .decode s = .next t ∧ t.err = 3 ∧ t.subErr = 0 ∧ abortedFrom s t)) ∧
  ∀ (s : State) (k : Nat), isLeaf s s.root = true → k < s.bitcnt.toNat → snkReady s k → snkSample s k = false →
    s.outcnt.toNat + k < 2 ^ 64 →
    ∃ t, exec .decode s = .next t ∧ t.err = 3 ∧ t.subErr = 0 ∧ abortedFrom s t

/-- 44_bit_reader_decoder.md R197: DECODE always ends, in DONE or in an abort, whatever the arena, the payload and the samples hold. -/
def Obligations.DecodeEnds : Prop :=
  ∀ s : State, 8 * s.paylen.toNat < 2 ^ 64 →
    ∃ t, exec .decode s = .next t ∧ (t.phase = phaseCode .done ∨ t.phase = phaseCode .error)

/-! ## Aborts, registers, reset -/

/-- 60_exceptions.md R251, R252, R256, R257: the codes of the error kinds and sub-causes; an abort writes ERR, SUBERR, both counts and PHASE, and nothing else of the engine.
That the host's bytes in the sink stay is the model's inference (log 6, DEDUCED from 20_memory.md R62), and the counter `draws` is the model's own (log 6). -/
def Obligations.AbortEffect : Prop :=
  [ErrKind.sourceUnavailable, .formatError, .sinkError].map (fun e => (errCode e).toNat) = [1, 2, 3] ∧
  [SubCause.none, .truncHeader, .badCount, .truncRecord, .badRecord, .truncBitcount, .truncPayload, .noBranch, .pastPayload, .tooLong].map
    (fun c => (subCode c).toNat) = [0, 1, 2, 3, 4, 5, 6, 7, 8, 9] ∧
  ∀ (s : State) (e : ErrKind) (c : SubCause), ∃ more,
    takeAbort e c s = { s with
      err := errCode e, subErr := subCode c, countIn := 0, countOut := 0, phase := phaseCode .error,
      snk := s.snk.take (s.snk.length - s.outcnt.toNat) ++ more, draws := s.draws + 1 }

/-- 70_reset_and_hazards.md R280, 10_state.md R44: the registers reset gives a value, at `State.resetWith` and after a reset in any phase, which touches neither SRC nor,
while no command runs, SNK. That the host's bytes stay when a running command is abandoned is the model's inference (log 6, DEDUCED from 20_memory.md R62). -/
def Obligations.ResetEffect : Prop :=
  (∀ c : Config, (State.resetWith c).phase = phaseCode .idle ∧ ∀ n, regRead n (State.resetWith c) = 0) ∧
  ∀ (s : State) (rest : List HostMove), s.host = .rst :: rest →
    ∃ t, step s = .next t ∧ t.phase = phaseCode .idle ∧ (∀ n, regRead n t = 0) ∧
      t.cfg = s.cfg ∧ t.src = s.src ∧ t.host = rest ∧
      t.srcOk = s.srcOk ∧ t.srcOkNext = s.srcOkNext ∧ t.snkOk = s.snkOk ∧ t.snkOkNext = s.snkOkNext ∧
      (busy s = false → t.snk = s.snk) ∧
      (busy s = true → ∃ more, t.snk = s.snk.take (s.snk.length - s.outcnt.toNat) ++ more)

/-- 10_state.md R21, R23, 93_implementation_defined.md U9: what the host reads in each register, with `ST` a function of PHASE, and that a read changes nothing else; a write to SRC_LEN takes
the low 64 bits, and is refused while BUSY (log 11); a write to any other register but CMD is ignored. -/
def Obligations.RegisterFile : Prop :=
  (∀ s : State,
    (List.range 8).map (fun n => (regRead (Fin.ofNat 8 n) s).toNat) =
      [0,
       if s.phase.toNat = 0 then 0 else if s.phase.toNat = 12 then 2 else if s.phase.toNat = 13 then 3 else 1,
       s.err.toNat, s.subErr.toNat, s.srcLen.toNat, s.countIn.toNat, s.countOut.toNat, 0]) ∧
  (∀ (s : State) (n : Fin 8) (rest : List HostMove), s.host = .regRead n :: rest →
    step s = .next { s with host := rest, rdata := regRead n s }) ∧
  ∀ (s : State) (n : Fin 8) (v : Nat) (rest : List HostMove), s.host = .regWrite n v :: rest →
    (n = 4 → busy s = false → step s = .next { s with host := rest, srcLen := BitVec.ofNat 64 (v % 2 ^ 64) }) ∧
    (n = 4 → busy s = true → step s = .refused .sourceChangedWhileBusy) ∧
    (n ≠ 0 → n ≠ 4 → step s = .next { s with host := rest })

/-- 70_reset_and_hazards.md R282, R285, R286, R290, 10_state.md R30, 93_implementation_defined.md U9: the host places bytes in SRC at any time but below SRC_LEN while BUSY (refused, log 11), and no other byte changes; at any time
it drives `SRC_OK` and `SNK_OK`, which changes their coming samples alone, and drains the `n` oldest bytes of the sink. The form of these moves is the model's (logs 2 and 3). -/
def Obligations.SourcePlacement : Prop :=
  (∀ (s : State) (off : Nat) (bs : List Byte) (rest : List HostMove),
    s.host = .placeSource off bs :: rest → off + bs.length ≤ 2 ^ 64 →
    (busy s = true → off < s.srcLen.toNat → bs ≠ [] → step s = .refused .sourceChangedWhileBusy) ∧
    (busy s = false ∨ s.srcLen.toNat ≤ off →
      ∃ t, step s = .next t ∧ t = { s with host := rest, src := t.src } ∧
        ∀ a, readByte t.src a = if h : off ≤ a ∧ a - off < bs.length then bs[a - off] else readByte s.src a)) ∧
  (∀ (s : State) (next : List Bool) (level : Bool) (rest : List HostMove), s.host = .driveSrcOk next level :: rest →
    ∃ t, step s = .next t ∧ t = { s with host := rest, srcOkNext := t.srcOkNext, srcOk := t.srcOk } ∧
      ∀ k, srcSample t k = if h : k < next.length then next[k] else level) ∧
  (∀ (s : State) (next : List Bool) (level : Bool) (rest : List HostMove), s.host = .driveSnkOk next level :: rest →
    ∃ t, step s = .next t ∧ t = { s with host := rest, snkOkNext := t.snkOkNext, snkOk := t.snkOk } ∧
      ∀ k, snkSample t k = if h : k < next.length then next[k] else level) ∧
  ∀ (s : State) (n : Nat) (rest : List HostMove), s.host = .drainSink n :: rest →
    step s = .next { s with host := rest, snk := s.snk.drop n }

/-! ## Encoding -/

/-- 30_encoding.md R91, R92, 20_memory.md R79: a step in which the host makes no move executes the operation that PHASE selects, while the host
polls STATUS the engine goes on until it is not BUSY, and a step that writes CMD executes the command it decodes to. The list of host moves is the model's
form (log 2), and so is the byte the decoder reads (log 9). -/
def Obligations.StepRunsDecoded : Prop :=
  (∀ (s : State) (i : Instr), s.host = [] → decode .phase [BitVec.ofNat 8 s.phase.toNat] = .instr i [] → step s = exec i s) ∧
  (∀ (s : State) (i : Instr) (rest : List HostMove), s.host = .engine :: rest →
    decode .phase [BitVec.ofNat 8 s.phase.toNat] = .instr i [] → step s = exec i { s with host := rest }) ∧
  (∀ (s : State) (i : Instr) (rest : List HostMove), s.host = .wait :: rest →
    (busy s = true → decode .phase [BitVec.ofNat 8 s.phase.toNat] = .instr i [] → step s = exec i s) ∧
    (busy s = false → step s = .next { s with host := rest, rdata := (statusOf s.phase).setWidth 64 })) ∧
  (∀ (s : State) (i : Instr) (v : Nat) (rest : List HostMove), s.host = .regWrite 0 v :: rest →
    decode .cmd [BitVec.ofNat 8 v] = .instr i [] → step s = exec i { s with host := rest })

/-- 30_encoding.md R91, R92: eleven words written out from the tables decode to their operations. That a word is one byte, and that 0x10 is rejected as a phase word, is the model's layout (log 9, DESIGN
CHOICE). -/
def Obligations.DecodeWords : Prop :=
  decode .cmd [0b00000001#8] = .instr .compress [] ∧ decode .cmd [0b00000101#8] = .instr .compress [] ∧
  decode .cmd [0b00000010#8] = .instr .decompress [] ∧ decode .cmd [0b00000011#8] = .instr .cmdReserved3 [] ∧
  decode .phase [0b00000001#8] = .instr .hist [] ∧ decode .phase [0b00000011#8] = .instr .merge [] ∧
  decode .phase [0b00000100#8] = .instr .codes [] ∧ decode .phase [0b00000110#8] = .instr .flush [] ∧
  decode .phase [0b00001000#8] = .instr .dhdr [] ∧ decode .phase [0b00001011#8] = .instr .decode [] ∧
  decode .phase [0b00001101#8] = .instr .error [] ∧ decode .phase [0b00010000#8] = .rejected .notFourBits

/-- 30_encoding.md R91, R92, R98: the decoder reads an encoded operation back, and reads an operation from no other bytes: in a command the bits above bit 1 are free, in a phase word no bit is. -/
def Obligations.DecodeEncodeAgree : Prop :=
  (∀ (i : Instr) (rest : List Byte), decode (formatOf i) (encode i ++ rest) = .instr i rest) ∧
  ∀ (f : Format) (bs rest : List Byte) (i : Instr), decode f bs = .instr i rest →
    f = formatOf i ∧ ∃ b, bs = b :: rest ∧
      (f = .cmd → BitVec.extractLsb' 0 2 b = BitVec.ofNat 2 (codeOf i)) ∧ (f = .phase → [b] = encode i)

/-! ## Frames -/

/-- 46_commands_fsm.md R233, R234: what COMPRESS and DECOMPRESS may change; every byte of memory stays. That an abort keeps the host's bytes in the
sink is the model's inference (log 6, DEDUCED from 20_memory.md R62). -/
def Obligations.FrameCommands : Prop :=
  ∀ (s t : State) (i : Instr), i = .compress ∨ i = .decompress → exec i s = .next t →
    t = { s with
      err := t.err, subErr := t.subErr, countIn := t.countIn, countOut := t.countOut, outcnt := t.outcnt,
      mode := t.mode, phase := t.phase, srcOkNext := t.srcOkNext, snk := t.snk, draws := t.draws } ∧
    (∀ a, readByte t.src a = readByte s.src a ∧ readByte t.pbuf a = readByte s.pbuf a) ∧
    ((t.snk = s.snk ∧ t.draws = s.draws) ∨ (t.phase = phaseCode .error ∧ ∃ more, t.snk = s.snk ++ more))

/-- 40_histogram.md R122, 45_container_codec.md R215 to R217: what the phases that read the source and append nothing may change, and with which codes they abort (60_exceptions.md R253);
every byte of memory stays. That an abort touches the sink only past the host's bytes is the model's inference (`abortedFrom`, log 6, DEDUCED from 20_memory.md R62). -/
def Obligations.FrameSourceReaders : Prop :=
  ∀ s t : State,
    (exec .hist s = .next t →
      t = { s with
        ft := t.ft, idx := t.idx, phase := t.phase, srcOkNext := t.srcOkNext,
        err := t.err, subErr := t.subErr, countIn := t.countIn, countOut := t.countOut, snk := t.snk, draws := t.draws } ∧
      ((t.phase = phaseCode .leaves ∧ wentOn s t) ∨ abortedWithin [(1, 0)] s t)) ∧
    (exec .dhdr s = .next t →
      t = { s with
        nchar := t.nchar, phase := t.phase, srcOkNext := t.srcOkNext,
        err := t.err, subErr := t.subErr, countIn := t.countIn, countOut := t.countOut, snk := t.snk, draws := t.draws } ∧
      ((t.phase = phaseCode .drecs ∧ wentOn s t) ∨
        (t.phase = phaseCode .done ∧ t.snk = s.snk ∧ t.draws = s.draws ∧ t.err = s.err ∧ t.subErr = s.subErr ∧
          t.nchar = s.nchar ∧ t.countIn = 8 ∧ t.countOut = s.outcnt) ∨
        abortedWithin [(1, 0), (2, 1), (2, 2)] s t)) ∧
    (exec .drecs s = .next t →
      t = { s with
        ft := t.ft, reci := t.reci, prev := t.prev, phase := t.phase, srcOkNext := t.srcOkNext,
        err := t.err, subErr := t.subErr, countIn := t.countIn, countOut := t.countOut, snk := t.snk, draws := t.draws } ∧
      ((t.phase = phaseCode .leaves ∧ wentOn s t) ∨ abortedWithin [(1, 0), (2, 3), (2, 4)] s t)) ∧
    (exec .dbits s = .next t →
      t = { s with
        bitcnt := t.bitcnt, paylen := t.paylen, poff := t.poff, phase := t.phase, srcOkNext := t.srcOkNext,
        err := t.err, subErr := t.subErr, countIn := t.countIn, countOut := t.countOut, snk := t.snk, draws := t.draws } ∧
      ((t.phase = phaseCode .decode ∧ wentOn s t) ∨ abortedWithin [(1, 0), (2, 5), (2, 6)] s t)) ∧
    (∀ i, i = .hist ∨ i = .dhdr ∨ i = .drecs ∨ i = .dbits → exec i s = .next t →
      ∀ a, readByte t.src a = readByte s.src a ∧ readByte t.pbuf a = readByte s.pbuf a)

/-- 41_tree_builder.md R142, R144, 42_code_table.md R161: what LEAVES, MERGE and CODES may change; they raise nothing, and every byte of memory and of the sink stays. -/
def Obligations.FrameTreePhases : Prop :=
  ∀ s t : State,
    (exec .leaves s = .next t →
      t = { s with
        node := t.node, active := t.active, nnode := t.nnode, nact := t.nact, rootValid := t.rootValid, symi := t.symi,
        nchar := t.nchar, phase := t.phase } ∧ (s.mode = .decompress → t.nchar = s.nchar)) ∧
    (exec .merge s = .next t →
      t = { s with
        node := t.node, active := t.active, nnode := t.nnode, nact := t.nact, root := t.root, rootValid := t.rootValid,
        phase := t.phase }) ∧
    (exec .codes s = .next t →
      t = { s with ct := t.ct, stk := t.stk, sp := t.sp, path := t.path, phase := t.phase }) ∧
    (∀ i, i = .leaves ∨ i = .merge ∨ i = .codes → exec i s = .next t →
      t.snk = s.snk ∧ ∀ a, readByte t.src a = readByte s.src a ∧ readByte t.pbuf a = readByte s.pbuf a)

/-- 43_bit_packer.md R179: what PACK may change; it stores to PBUF[0 .. PLEN-1] alone, PLEN being the value it leaves, and aborts with 1/0 alone. The premise on SRC_LEN is part of the invariant `controlOk`. That the
host's bytes in the sink stay is the model's inference (`abortedFrom`, log 6, DEDUCED from 20_memory.md R62). -/
def Obligations.FramePack : Prop :=
  ∀ s t : State, s.srcLen.toNat ≤ s.cfg.srcCap.toNat → exec .pack s = .next t →
    t = { s with
      acc := t.acc, nb := t.nb, bitcnt := t.bitcnt, pbuf := t.pbuf, plen := t.plen, idx := t.idx, phase := t.phase,
      srcOkNext := t.srcOkNext, err := t.err, subErr := t.subErr, countIn := t.countIn, countOut := t.countOut,
      snk := t.snk, draws := t.draws } ∧
    (∀ a, readByte t.src a = readByte s.src a) ∧
    (∀ a, t.plen.toNat ≤ a → readByte t.pbuf a = readByte s.pbuf a) ∧
    ((t.phase = phaseCode .flush ∧ wentOn s t) ∨ abortedWithin [(1, 0)] s t)

/-- 45_container_codec.md R207, 44_bit_reader_decoder.md R192: what EMIT and DECODE may change; every byte of memory stays, a command that ends in DONE only appends to the sink, and
EMIT aborts with 3/0 alone, DECODE with 1/0, 2/8 or 3/0, and with 2/6 only if the payload is not inside SRC, which the invariant excludes. That an abort touches the sink only past the host's
bytes is the model's inference (`abortedFrom`, log 6, DEDUCED from 20_memory.md R62). The premises on OUTCNT follow from the invariant by `Obligations.OutputCountFits`. -/
def Obligations.FrameAppendingPhases : Prop :=
  ∀ s t : State,
    (exec .emit s = .next t → s.outcnt.toNat + (emitImage s).length < 2 ^ 64 →
      t = { s with
        snk := t.snk, outcnt := t.outcnt, snkOkNext := t.snkOkNext, symi := t.symi, emi := t.emi, countIn := t.countIn,
        countOut := t.countOut, phase := t.phase, err := t.err, subErr := t.subErr, draws := t.draws } ∧
      ((t.phase = phaseCode .done ∧ t.err = s.err ∧ t.subErr = s.subErr ∧ t.draws = s.draws ∧ t.countOut = t.outcnt ∧ s.snk <+: t.snk) ∨
        abortedWithin [(3, 0)] s t)) ∧
    (exec .decode s = .next t → s.outcnt.toNat + s.bitcnt.toNat < 2 ^ 64 →
      t = { s with
        cur := t.cur, nodep := t.nodep, srcOkNext := t.srcOkNext,
        snk := t.snk, outcnt := t.outcnt, snkOkNext := t.snkOkNext, countIn := t.countIn,
        countOut := t.countOut, phase := t.phase, err := t.err, subErr := t.subErr, draws := t.draws } ∧
      ((t.phase = phaseCode .done ∧ t.err = s.err ∧ t.subErr = s.subErr ∧ t.draws = s.draws ∧ t.countOut = t.outcnt ∧ s.snk <+: t.snk) ∨
        (abortedWithin [(1, 0), (2, 6), (2, 8), (3, 0)] s t ∧
          (t.subErr = 6 → s.srcLen.toNat < s.poff.toNat + s.paylen.toNat)))) ∧
    (∀ i, i = .emit ∨ i = .decode → exec i s = .next t →
      ∀ a, readByte t.src a = readByte s.src a ∧ readByte t.pbuf a = readByte s.pbuf a)

/-! ## Whole-machine rules -/

/-- 20_memory.md R61, R62, 10_state.md R26, R45: no operation writes SRC, SRC_LEN or the configuration, and only EMIT and DECODE append to the sink. -/
def Obligations.EngineLeavesHostStateAlone : Prop :=
  ∀ (s t : State) (i : Instr), exec i s = .next t →
    t.src = s.src ∧ t.srcLen = s.srcLen ∧ t.cfg = s.cfg ∧ t.host = s.host ∧ t.rdata = s.rdata ∧
    t.srcOk = s.srcOk ∧ t.snkOk = s.snkOk ∧
    (i ≠ .emit → i ≠ .decode → t.snk = s.snk ∨ t.phase = phaseCode .error)

/-- 46_commands_fsm.md R236: PHASE changes only as the table says. -/
def Obligations.PhaseTable : Prop :=
  ∀ (s t : State) (i : Instr), exec i s = .next t →
    t.phase ∈ (match i with
      | .nop | .cmdReserved3 | .idle | .done | .error => [s.phase]
      | .compress => if busy s then [s.phase] else [phaseCode .hist, phaseCode .error]
      | .decompress => if busy s then [s.phase] else [phaseCode .dhdr, phaseCode .error]
      | .hist => [phaseCode .leaves, phaseCode .error]
      | .leaves => [phaseCode .merge]
      | .merge =>
        match s.mode with
        | .decompress => [phaseCode .dbits]
        | .compress => if t.rootValid then [phaseCode .codes] else [phaseCode .emit]
      | .codes => [phaseCode .pack]
      | .pack => [phaseCode .flush, phaseCode .error]
      | .flush => [phaseCode .emit]
      | .emit => [phaseCode .done, phaseCode .error]
      | .dhdr => [phaseCode .done, phaseCode .drecs, phaseCode .error]
      | .drecs => [phaseCode .leaves, phaseCode .error]
      | .dbits => [phaseCode .decode, phaseCode .error]
      | .decode => [phaseCode .done, phaseCode .error]
      | .phaseUnreachable14 | .phaseUnreachable15 => [])

/-- Every step keeps both byte memories in canonical form (20_memory.md R61, 10_state.md R39). -/
def Obligations.StepKeepsMemoryForm : Prop :=
  ∀ s t : State, memoryOk s → step s = .next t → memoryOk t

/-- Every step keeps PHASE legal and in agreement with MODE, the result registers as R24, R25, R27, R28, R252, R255 and R288 say, and a running command within SRC_CAP (46_commands_fsm.md R236). -/
def Obligations.StepKeepsControl : Prop :=
  ∀ s t : State, controlOk s → step s = .next t → controlOk t

/-- Every step keeps the invariant of the engine: what each phase needs, the phases before it have made (46_commands_fsm.md R241). -/
def Obligations.StepKeepsEngineInvariant : Prop :=
  ∀ s t : State, engineOk s → step s = .next t → engineOk t

/-- The invariants hold at reset, in every configuration. The registers reset leaves unspecified are not used (10_state.md R44). -/
def Obligations.ResetMeetsInvariants : Prop :=
  ∀ c : Config, memoryOk (State.resetWith c) ∧ engineOk (State.resetWith c)

/-- 41_tree_builder.md R143, R150 (e), 43_bit_packer.md R183: from every state that meets the invariant, the engine's next operation ends in a next state; it neither faults nor is refused. (An index that a register file
does not have makes no fault, log 8, so this does not say that none is used.) -/
def Obligations.EngineNeverStops : Prop :=
  ∀ s : State, engineOk s → ∃ t, exec (phaseOp s) s = .next t

/-- 45_container_codec.md R219: while the source and the sink stay usable, DECOMPRESS of the bytes COMPRESS appended appends the source, for every source within the capacity and either
value of EMIT_PAD_BYTE. -/
def Obligations.RoundTrip : Prop :=
  ∀ s : State, busy s = false → s.host = [.regWrite 0 1] → (∀ k, srcSample s k = true) → (∀ k, snkSample s k = true) →
    s.srcLen.toNat ≤ s.cfg.srcCap.toNat →
    ∃ t c, runCommand 8 s = some t ∧ t.phase = phaseCode .done ∧ t.snk = s.snk ++ c ∧
      ∀ u : State, busy u = false → u.host = [.regWrite 0 2] → (∀ k, srcSample u k = true) → (∀ k, snkSample u k = true) →
        sourceBytes u = c → u.srcLen.toNat ≤ u.cfg.srcCap.toNat →
        ∃ v, runCommand 8 u = some v ∧ v.phase = phaseCode .done ∧ v.snk = u.snk ++ sourceBytes s
end

