-- ==== Sys2Proof/Laws/Memory.lean ====
section
/-! SUPPORT. The laws of the byte memories: a read after a write, and the canonical form that every memory operation keeps. -/

namespace Sys2Proof.Machine

theorem readByte_insertCell (m : Memory) (a b : Nat) (v : Byte) :
    readByte (insertCell m a v) b = if a = b then v else readByte m b := by
  induction m with
  | nil => simp [insertCell, readByte]
  | cons c m ih =>
    obtain ⟨k, w⟩ := c
    by_cases h1 : a < k
    · simp [insertCell, h1, readByte]
    · by_cases h2 : a = k
      · subst h2
        simp [insertCell, readByte]
        split <;> simp_all
      · simp only [insertCell, h1, h2, if_false, readByte, ih]
        by_cases h3 : k = b
        · have : a ≠ b := fun h => h2 (h.trans h3.symm)
          simp [h3, this]
        · simp [h3]

theorem readByte_filter_ne (m : Memory) (a b : Nat) :
    readByte (m.filter fun c => c.1 != a) b = if a = b then Memory.unlisted else readByte m b := by
  induction m with
  | nil => simp [readByte]
  | cons c m ih =>
    obtain ⟨k, w⟩ := c
    by_cases h1 : k = a
    · subst h1
      have hk : (k != k) = false := by simp
      rw [List.filter_cons]
      simp only [hk, readByte, Bool.false_eq_true, if_false]
      rw [ih]
      by_cases h2 : k = b <;> simp [h2]
    · have hk : (k != a) = true := by simpa using h1
      simp only [List.filter_cons, hk, if_true, readByte, ih]
      by_cases h2 : k = b
      · subst h2
        simp [Ne.symm h1]
      · simp [h2]

/-- A read after a write to the same place gives the value written, and a write leaves every other place alone. -/
theorem readByte_writeByte (m : Memory) (a b : Nat) (v : Byte) :
    readByte (writeByte m a v) b = if a = b then v else readByte m b := by
  unfold writeByte
  split
  · next h => rw [readByte_filter_ne, h]
  · exact readByte_insertCell m a b v

@[simp] theorem readByte_writeByte_same (m : Memory) (a : Nat) (v : Byte) : readByte (writeByte m a v) a = v := by
  simp [readByte_writeByte]

theorem readByte_writeByte_other (m : Memory) (a b : Nat) (v : Byte) (h : a ≠ b) :
    readByte (writeByte m a v) b = readByte m b := by
  simp [readByte_writeByte, h]

theorem mem_insertCell (m : Memory) (a : Nat) (v : Byte) (c : Host.Cell) (h : c ∈ insertCell m a v) :
    c = (a, v) ∨ c ∈ m := by
  induction m with
  | nil => simpa [insertCell] using h
  | cons d m ih =>
    obtain ⟨k, w⟩ := d
    simp only [insertCell] at h
    split at h
    · simpa using h
    · split at h
      · simp only [List.mem_cons] at h ⊢
        tauto
      · simp only [List.mem_cons] at h ⊢
        rcases h with h | h
        · exact .inr (.inl h)
        · rcases ih h with h | h <;> simp [h]

theorem insertCell_rising (m : Memory) (a : Nat) (v : Byte) (h : m.Pairwise fun c d => c.1 < d.1) :
    (insertCell m a v).Pairwise fun c d => c.1 < d.1 := by
  induction m with
  | nil => simp [insertCell]
  | cons d m ih =>
    obtain ⟨k, w⟩ := d
    have hk := List.pairwise_cons.1 h
    simp only [insertCell]
    split
    · next h1 =>
      refine List.pairwise_cons.2 ⟨fun c hc => ?_, h⟩
      rcases List.mem_cons.1 hc with rfl | hc
      · exact h1
      · exact lt_trans h1 (hk.1 c hc)
    · split
      · next h2 =>
        subst h2
        exact List.pairwise_cons.2 ⟨fun c hc => hk.1 c hc, hk.2⟩
      · next h1 h2 =>
        refine List.pairwise_cons.2 ⟨fun c hc => ?_, ih hk.2⟩
        rcases mem_insertCell m a v c hc with rfl | hc
        · exact lt_of_le_of_ne (not_lt.1 h1) (Ne.symm h2)
        · exact hk.1 c hc

/-- A write keeps the canonical form. -/
theorem writeByte_wf (m : Memory) (a : Nat) (v : Byte) (h : Memory.wf m) : Memory.wf (writeByte m a v) := by
  unfold writeByte
  split
  · exact ⟨h.1.filter _, fun c hc => h.2 c (List.mem_filter.1 hc).1⟩
  · next hv =>
    refine ⟨insertCell_rising m a v h.1, fun c hc => ?_⟩
    rcases mem_insertCell m a v c hc with rfl | hc
    · exact hv
    · exact h.2 c hc

/-- A write of several bytes keeps the canonical form. -/
theorem writeBytes_wf (bs : List Byte) (m : Memory) (a : Nat) (h : Memory.wf m) : Memory.wf (writeBytes m a bs) := by
  induction bs generalizing m a with
  | nil => exact h
  | cons b bs ih => exact ih _ _ (writeByte_wf m a b h)

/-- The memories of the machine right after reset are in canonical form. -/
theorem resetWith_memory_wf (c : Config) :
    Memory.wf (State.resetWith c).src ∧ Memory.wf (State.resetWith c).pbuf := by
  simp [State.resetWith, Memory.wf]

@[simp] theorem length_readBytes (m : Memory) (a n : Nat) : (readBytes m a n).length = n := by
  induction n generalizing a with
  | zero => rfl
  | succ n ih => simp [readBytes, ih]

@[simp] theorem length_leBytes (n v : Nat) : (leBytes n v).length = n := by
  induction n generalizing v with
  | zero => rfl
  | succ n ih => simp [leBytes, ih]

/-- The little-endian bytes of a value give it back, modulo what `n` bytes hold. -/
theorem leNat_leBytes (n v : Nat) : leNat (leBytes n v) = v % 256 ^ n := by
  induction n generalizing v with
  | zero => simp [leBytes, leNat, Nat.mod_one]
  | succ n ih =>
    simp only [leBytes, leNat, ih, BitVec.toNat_ofNat]
    show v % 256 + 256 * _ = _
    rw [Nat.pow_succ, Nat.mul_comm (256 ^ n) 256, Nat.mod_mul]

theorem leNat_lt (bs : List Byte) : leNat bs < 256 ^ bs.length := by
  induction bs with
  | nil => simp [leNat]
  | cons b bs ih =>
    have := b.isLt
    simp only [leNat, List.length_cons, pow_succ]
    omega

end Sys2Proof.Machine
end

