-- ==== Sys2Proof/Laws/State.lean ====
section
/-! SUPPORT. The fields of a state after each named update, true by rfl: one conjunct per field, so that `simp` rewrites by each of them and no later proof unfolds an update. -/

namespace Sys2Proof.Machine

/-- `phase <- P`: what it writes. -/
@[simp] theorem toPhase_writes (i : Instr) (s : State) :
    (toPhase i s).phase = phaseCode i := by
  exact rfl

/-- `phase <- P`: what it keeps. -/
@[simp] theorem toPhase_keeps (i : Instr) (s : State) :
    (toPhase i s).cfg = s.cfg ∧ (toPhase i s).err = s.err ∧ (toPhase i s).subErr = s.subErr ∧
    (toPhase i s).srcLen = s.srcLen ∧ (toPhase i s).countIn = s.countIn ∧ (toPhase i s).countOut = s.countOut ∧
    (toPhase i s).ft = s.ft ∧ (toPhase i s).nchar = s.nchar ∧ (toPhase i s).mode = s.mode ∧
    (toPhase i s).idx = s.idx ∧ (toPhase i s).symi = s.symi ∧ (toPhase i s).reci = s.reci ∧
    (toPhase i s).prev = s.prev ∧ (toPhase i s).emi = s.emi ∧ (toPhase i s).cur = s.cur ∧
    (toPhase i s).nodep = s.nodep ∧ (toPhase i s).outcnt = s.outcnt ∧ (toPhase i s).node = s.node ∧
    (toPhase i s).nnode = s.nnode ∧ (toPhase i s).active = s.active ∧ (toPhase i s).nact = s.nact ∧
    (toPhase i s).root = s.root ∧ (toPhase i s).rootValid = s.rootValid ∧ (toPhase i s).ct = s.ct ∧
    (toPhase i s).stk = s.stk ∧ (toPhase i s).sp = s.sp ∧ (toPhase i s).path = s.path ∧ (toPhase i s).acc = s.acc ∧
    (toPhase i s).nb = s.nb ∧ (toPhase i s).bitcnt = s.bitcnt ∧ (toPhase i s).pbuf = s.pbuf ∧
    (toPhase i s).plen = s.plen ∧ (toPhase i s).paylen = s.paylen ∧ (toPhase i s).poff = s.poff ∧
    (toPhase i s).src = s.src ∧ (toPhase i s).snk = s.snk ∧ (toPhase i s).srcOk = s.srcOk ∧
    (toPhase i s).srcOkNext = s.srcOkNext ∧ (toPhase i s).snkOk = s.snkOk ∧ (toPhase i s).snkOkNext = s.snkOkNext ∧
    (toPhase i s).host = s.host ∧ (toPhase i s).rdata = s.rdata ∧ (toPhase i s).draws = s.draws := by
  refine ⟨?_, ?_, ?_, ?_, ?_, ?_, ?_, ?_, ?_, ?_, ?_, ?_, ?_, ?_, ?_, ?_, ?_, ?_, ?_, ?_, ?_, ?_, ?_, ?_, ?_, ?_, ?_, ?_, ?_, ?_, ?_, ?_, ?_, ?_, ?_, ?_, ?_, ?_, ?_, ?_, ?_, ?_, ?_⟩ <;> rfl

/-- The sink of a failed command (spec/60_exceptions.md R257): what it writes. -/
@[simp] theorem discardSink_writes (s : State) :
    (discardSink s).snk = s.snk.take (s.snk.length - s.outcnt.toNat) ++ Config.sinkAfterFailure s.draws ∧
    (discardSink s).draws = s.draws + 1 := by
  exact ⟨rfl, rfl⟩

/-- The sink of a failed command (spec/60_exceptions.md R257): what it keeps. -/
@[simp] theorem discardSink_keeps (s : State) :
    (discardSink s).cfg = s.cfg ∧ (discardSink s).err = s.err ∧ (discardSink s).subErr = s.subErr ∧
    (discardSink s).srcLen = s.srcLen ∧ (discardSink s).countIn = s.countIn ∧ (discardSink s).countOut = s.countOut ∧
    (discardSink s).ft = s.ft ∧ (discardSink s).nchar = s.nchar ∧ (discardSink s).phase = s.phase ∧
    (discardSink s).mode = s.mode ∧ (discardSink s).idx = s.idx ∧ (discardSink s).symi = s.symi ∧
    (discardSink s).reci = s.reci ∧ (discardSink s).prev = s.prev ∧ (discardSink s).emi = s.emi ∧
    (discardSink s).cur = s.cur ∧ (discardSink s).nodep = s.nodep ∧ (discardSink s).outcnt = s.outcnt ∧
    (discardSink s).node = s.node ∧ (discardSink s).nnode = s.nnode ∧ (discardSink s).active = s.active ∧
    (discardSink s).nact = s.nact ∧ (discardSink s).root = s.root ∧ (discardSink s).rootValid = s.rootValid ∧
    (discardSink s).ct = s.ct ∧ (discardSink s).stk = s.stk ∧ (discardSink s).sp = s.sp ∧
    (discardSink s).path = s.path ∧ (discardSink s).acc = s.acc ∧ (discardSink s).nb = s.nb ∧
    (discardSink s).bitcnt = s.bitcnt ∧ (discardSink s).pbuf = s.pbuf ∧ (discardSink s).plen = s.plen ∧
    (discardSink s).paylen = s.paylen ∧ (discardSink s).poff = s.poff ∧ (discardSink s).src = s.src ∧
    (discardSink s).srcOk = s.srcOk ∧ (discardSink s).srcOkNext = s.srcOkNext ∧ (discardSink s).snkOk = s.snkOk ∧
    (discardSink s).snkOkNext = s.snkOkNext ∧ (discardSink s).host = s.host ∧ (discardSink s).rdata = s.rdata := by
  refine ⟨?_, ?_, ?_, ?_, ?_, ?_, ?_, ?_, ?_, ?_, ?_, ?_, ?_, ?_, ?_, ?_, ?_, ?_, ?_, ?_, ?_, ?_, ?_, ?_, ?_, ?_, ?_, ?_, ?_, ?_, ?_, ?_, ?_, ?_, ?_, ?_, ?_, ?_, ?_, ?_, ?_, ?_⟩ <;> rfl

/-- The abort (spec/60_exceptions.md R256): what it writes. -/
@[simp] theorem takeAbort_writes (e : ErrKind) (c : SubCause) (s : State) :
    (takeAbort e c s).err = errCode e ∧ (takeAbort e c s).subErr = subCode c ∧ (takeAbort e c s).countIn = 0 ∧
    (takeAbort e c s).countOut = 0 ∧ (takeAbort e c s).phase = phaseCode .error ∧
    (takeAbort e c s).snk = s.snk.take (s.snk.length - s.outcnt.toNat) ++ Config.sinkAfterFailure s.draws ∧
    (takeAbort e c s).draws = s.draws + 1 := by
  exact ⟨rfl, rfl, rfl, rfl, rfl, rfl, rfl⟩

/-- The abort (spec/60_exceptions.md R256): what it keeps. -/
@[simp] theorem takeAbort_keeps (e : ErrKind) (c : SubCause) (s : State) :
    (takeAbort e c s).cfg = s.cfg ∧ (takeAbort e c s).srcLen = s.srcLen ∧ (takeAbort e c s).ft = s.ft ∧
    (takeAbort e c s).nchar = s.nchar ∧ (takeAbort e c s).mode = s.mode ∧ (takeAbort e c s).idx = s.idx ∧
    (takeAbort e c s).symi = s.symi ∧ (takeAbort e c s).reci = s.reci ∧ (takeAbort e c s).prev = s.prev ∧
    (takeAbort e c s).emi = s.emi ∧ (takeAbort e c s).cur = s.cur ∧ (takeAbort e c s).nodep = s.nodep ∧
    (takeAbort e c s).outcnt = s.outcnt ∧ (takeAbort e c s).node = s.node ∧ (takeAbort e c s).nnode = s.nnode ∧
    (takeAbort e c s).active = s.active ∧ (takeAbort e c s).nact = s.nact ∧ (takeAbort e c s).root = s.root ∧
    (takeAbort e c s).rootValid = s.rootValid ∧ (takeAbort e c s).ct = s.ct ∧ (takeAbort e c s).stk = s.stk ∧
    (takeAbort e c s).sp = s.sp ∧ (takeAbort e c s).path = s.path ∧ (takeAbort e c s).acc = s.acc ∧
    (takeAbort e c s).nb = s.nb ∧ (takeAbort e c s).bitcnt = s.bitcnt ∧ (takeAbort e c s).pbuf = s.pbuf ∧
    (takeAbort e c s).plen = s.plen ∧ (takeAbort e c s).paylen = s.paylen ∧ (takeAbort e c s).poff = s.poff ∧
    (takeAbort e c s).src = s.src ∧ (takeAbort e c s).srcOk = s.srcOk ∧ (takeAbort e c s).srcOkNext = s.srcOkNext ∧
    (takeAbort e c s).snkOk = s.snkOk ∧ (takeAbort e c s).snkOkNext = s.snkOkNext ∧ (takeAbort e c s).host = s.host ∧
    (takeAbort e c s).rdata = s.rdata := by
  refine ⟨?_, ?_, ?_, ?_, ?_, ?_, ?_, ?_, ?_, ?_, ?_, ?_, ?_, ?_, ?_, ?_, ?_, ?_, ?_, ?_, ?_, ?_, ?_, ?_, ?_, ?_, ?_, ?_, ?_, ?_, ?_, ?_, ?_, ?_, ?_, ?_, ?_⟩ <;> rfl

/-- The acceptance of a command (spec/46_commands_fsm.md R233, R234): what it writes. -/
@[simp] theorem accept_writes (m : Mode) (s : State) :
    (accept m s).err = 0 ∧ (accept m s).subErr = 0 ∧ (accept m s).countIn = 0 ∧ (accept m s).countOut = 0 ∧
    (accept m s).outcnt = 0 ∧ (accept m s).mode = m := by
  exact ⟨rfl, rfl, rfl, rfl, rfl, rfl⟩

/-- The acceptance of a command (spec/46_commands_fsm.md R233, R234): what it keeps. -/
@[simp] theorem accept_keeps (m : Mode) (s : State) :
    (accept m s).cfg = s.cfg ∧ (accept m s).srcLen = s.srcLen ∧ (accept m s).ft = s.ft ∧
    (accept m s).nchar = s.nchar ∧ (accept m s).phase = s.phase ∧ (accept m s).idx = s.idx ∧
    (accept m s).symi = s.symi ∧ (accept m s).reci = s.reci ∧ (accept m s).prev = s.prev ∧ (accept m s).emi = s.emi ∧
    (accept m s).cur = s.cur ∧ (accept m s).nodep = s.nodep ∧ (accept m s).node = s.node ∧
    (accept m s).nnode = s.nnode ∧ (accept m s).active = s.active ∧ (accept m s).nact = s.nact ∧
    (accept m s).root = s.root ∧ (accept m s).rootValid = s.rootValid ∧ (accept m s).ct = s.ct ∧
    (accept m s).stk = s.stk ∧ (accept m s).sp = s.sp ∧ (accept m s).path = s.path ∧ (accept m s).acc = s.acc ∧
    (accept m s).nb = s.nb ∧ (accept m s).bitcnt = s.bitcnt ∧ (accept m s).pbuf = s.pbuf ∧
    (accept m s).plen = s.plen ∧ (accept m s).paylen = s.paylen ∧ (accept m s).poff = s.poff ∧
    (accept m s).src = s.src ∧ (accept m s).snk = s.snk ∧ (accept m s).srcOk = s.srcOk ∧
    (accept m s).srcOkNext = s.srcOkNext ∧ (accept m s).snkOk = s.snkOk ∧ (accept m s).snkOkNext = s.snkOkNext ∧
    (accept m s).host = s.host ∧ (accept m s).rdata = s.rdata ∧ (accept m s).draws = s.draws := by
  refine ⟨?_, ?_, ?_, ?_, ?_, ?_, ?_, ?_, ?_, ?_, ?_, ?_, ?_, ?_, ?_, ?_, ?_, ?_, ?_, ?_, ?_, ?_, ?_, ?_, ?_, ?_, ?_, ?_, ?_, ?_, ?_, ?_, ?_, ?_, ?_, ?_, ?_, ?_⟩ <;> rfl

/-- The end of a command (spec/46_commands_fsm.md R240): what it writes. -/
@[simp] theorem enterDone_writes (n : Nat) (s : State) :
    (enterDone n s).countIn = BitVec.ofNat 64 n ∧ (enterDone n s).countOut = s.outcnt ∧
    (enterDone n s).phase = phaseCode .done := by
  exact ⟨rfl, rfl, rfl⟩

/-- The end of a command (spec/46_commands_fsm.md R240): what it keeps. -/
@[simp] theorem enterDone_keeps (n : Nat) (s : State) :
    (enterDone n s).cfg = s.cfg ∧ (enterDone n s).err = s.err ∧ (enterDone n s).subErr = s.subErr ∧
    (enterDone n s).srcLen = s.srcLen ∧ (enterDone n s).ft = s.ft ∧ (enterDone n s).nchar = s.nchar ∧
    (enterDone n s).mode = s.mode ∧ (enterDone n s).idx = s.idx ∧ (enterDone n s).symi = s.symi ∧
    (enterDone n s).reci = s.reci ∧ (enterDone n s).prev = s.prev ∧ (enterDone n s).emi = s.emi ∧
    (enterDone n s).cur = s.cur ∧ (enterDone n s).nodep = s.nodep ∧ (enterDone n s).outcnt = s.outcnt ∧
    (enterDone n s).node = s.node ∧ (enterDone n s).nnode = s.nnode ∧ (enterDone n s).active = s.active ∧
    (enterDone n s).nact = s.nact ∧ (enterDone n s).root = s.root ∧ (enterDone n s).rootValid = s.rootValid ∧
    (enterDone n s).ct = s.ct ∧ (enterDone n s).stk = s.stk ∧ (enterDone n s).sp = s.sp ∧
    (enterDone n s).path = s.path ∧ (enterDone n s).acc = s.acc ∧ (enterDone n s).nb = s.nb ∧
    (enterDone n s).bitcnt = s.bitcnt ∧ (enterDone n s).pbuf = s.pbuf ∧ (enterDone n s).plen = s.plen ∧
    (enterDone n s).paylen = s.paylen ∧ (enterDone n s).poff = s.poff ∧ (enterDone n s).src = s.src ∧
    (enterDone n s).snk = s.snk ∧ (enterDone n s).srcOk = s.srcOk ∧ (enterDone n s).srcOkNext = s.srcOkNext ∧
    (enterDone n s).snkOk = s.snkOk ∧ (enterDone n s).snkOkNext = s.snkOkNext ∧ (enterDone n s).host = s.host ∧
    (enterDone n s).rdata = s.rdata ∧ (enterDone n s).draws = s.draws := by
  refine ⟨?_, ?_, ?_, ?_, ?_, ?_, ?_, ?_, ?_, ?_, ?_, ?_, ?_, ?_, ?_, ?_, ?_, ?_, ?_, ?_, ?_, ?_, ?_, ?_, ?_, ?_, ?_, ?_, ?_, ?_, ?_, ?_, ?_, ?_, ?_, ?_, ?_, ?_, ?_, ?_, ?_⟩ <;> rfl

/-- One append (spec/20_memory.md R66): what it writes. -/
@[simp] theorem appendByte_writes (b : Byte) (s : State) :
    (appendByte b s).snk = s.snk ++ [b] ∧ (appendByte b s).outcnt = s.outcnt + 1 := by
  exact ⟨rfl, rfl⟩

/-- One append (spec/20_memory.md R66): what it keeps. -/
@[simp] theorem appendByte_keeps (b : Byte) (s : State) :
    (appendByte b s).cfg = s.cfg ∧ (appendByte b s).err = s.err ∧ (appendByte b s).subErr = s.subErr ∧
    (appendByte b s).srcLen = s.srcLen ∧ (appendByte b s).countIn = s.countIn ∧
    (appendByte b s).countOut = s.countOut ∧ (appendByte b s).ft = s.ft ∧ (appendByte b s).nchar = s.nchar ∧
    (appendByte b s).phase = s.phase ∧ (appendByte b s).mode = s.mode ∧ (appendByte b s).idx = s.idx ∧
    (appendByte b s).symi = s.symi ∧ (appendByte b s).reci = s.reci ∧ (appendByte b s).prev = s.prev ∧
    (appendByte b s).emi = s.emi ∧ (appendByte b s).cur = s.cur ∧ (appendByte b s).nodep = s.nodep ∧
    (appendByte b s).node = s.node ∧ (appendByte b s).nnode = s.nnode ∧ (appendByte b s).active = s.active ∧
    (appendByte b s).nact = s.nact ∧ (appendByte b s).root = s.root ∧ (appendByte b s).rootValid = s.rootValid ∧
    (appendByte b s).ct = s.ct ∧ (appendByte b s).stk = s.stk ∧ (appendByte b s).sp = s.sp ∧
    (appendByte b s).path = s.path ∧ (appendByte b s).acc = s.acc ∧ (appendByte b s).nb = s.nb ∧
    (appendByte b s).bitcnt = s.bitcnt ∧ (appendByte b s).pbuf = s.pbuf ∧ (appendByte b s).plen = s.plen ∧
    (appendByte b s).paylen = s.paylen ∧ (appendByte b s).poff = s.poff ∧ (appendByte b s).src = s.src ∧
    (appendByte b s).srcOk = s.srcOk ∧ (appendByte b s).srcOkNext = s.srcOkNext ∧ (appendByte b s).snkOk = s.snkOk ∧
    (appendByte b s).snkOkNext = s.snkOkNext ∧ (appendByte b s).host = s.host ∧ (appendByte b s).rdata = s.rdata ∧
    (appendByte b s).draws = s.draws := by
  refine ⟨?_, ?_, ?_, ?_, ?_, ?_, ?_, ?_, ?_, ?_, ?_, ?_, ?_, ?_, ?_, ?_, ?_, ?_, ?_, ?_, ?_, ?_, ?_, ?_, ?_, ?_, ?_, ?_, ?_, ?_, ?_, ?_, ?_, ?_, ?_, ?_, ?_, ?_, ?_, ?_, ?_, ?_⟩ <;> rfl

/-- `FT[b] <- v`: what it writes. -/
@[simp] theorem ftSet_writes (b : Byte) (v : Word64) (s : State) :
    (ftSet b v s).ft = s.ft.set b.toNat v b.isLt := by
  exact rfl

/-- `FT[b] <- v`: what it keeps. -/
@[simp] theorem ftSet_keeps (b : Byte) (v : Word64) (s : State) :
    (ftSet b v s).cfg = s.cfg ∧ (ftSet b v s).err = s.err ∧ (ftSet b v s).subErr = s.subErr ∧
    (ftSet b v s).srcLen = s.srcLen ∧ (ftSet b v s).countIn = s.countIn ∧ (ftSet b v s).countOut = s.countOut ∧
    (ftSet b v s).nchar = s.nchar ∧ (ftSet b v s).phase = s.phase ∧ (ftSet b v s).mode = s.mode ∧
    (ftSet b v s).idx = s.idx ∧ (ftSet b v s).symi = s.symi ∧ (ftSet b v s).reci = s.reci ∧
    (ftSet b v s).prev = s.prev ∧ (ftSet b v s).emi = s.emi ∧ (ftSet b v s).cur = s.cur ∧
    (ftSet b v s).nodep = s.nodep ∧ (ftSet b v s).outcnt = s.outcnt ∧ (ftSet b v s).node = s.node ∧
    (ftSet b v s).nnode = s.nnode ∧ (ftSet b v s).active = s.active ∧ (ftSet b v s).nact = s.nact ∧
    (ftSet b v s).root = s.root ∧ (ftSet b v s).rootValid = s.rootValid ∧ (ftSet b v s).ct = s.ct ∧
    (ftSet b v s).stk = s.stk ∧ (ftSet b v s).sp = s.sp ∧ (ftSet b v s).path = s.path ∧ (ftSet b v s).acc = s.acc ∧
    (ftSet b v s).nb = s.nb ∧ (ftSet b v s).bitcnt = s.bitcnt ∧ (ftSet b v s).pbuf = s.pbuf ∧
    (ftSet b v s).plen = s.plen ∧ (ftSet b v s).paylen = s.paylen ∧ (ftSet b v s).poff = s.poff ∧
    (ftSet b v s).src = s.src ∧ (ftSet b v s).snk = s.snk ∧ (ftSet b v s).srcOk = s.srcOk ∧
    (ftSet b v s).srcOkNext = s.srcOkNext ∧ (ftSet b v s).snkOk = s.snkOk ∧ (ftSet b v s).snkOkNext = s.snkOkNext ∧
    (ftSet b v s).host = s.host ∧ (ftSet b v s).rdata = s.rdata ∧ (ftSet b v s).draws = s.draws := by
  refine ⟨?_, ?_, ?_, ?_, ?_, ?_, ?_, ?_, ?_, ?_, ?_, ?_, ?_, ?_, ?_, ?_, ?_, ?_, ?_, ?_, ?_, ?_, ?_, ?_, ?_, ?_, ?_, ?_, ?_, ?_, ?_, ?_, ?_, ?_, ?_, ?_, ?_, ?_, ?_, ?_, ?_, ?_, ?_⟩ <;> rfl

/-- `CT[b] <- e`: what it writes. -/
@[simp] theorem ctSet_writes (b : Byte) (e : CodeEntry) (s : State) :
    (ctSet b e s).ct = s.ct.set b.toNat e b.isLt := by
  exact rfl

/-- `CT[b] <- e`: what it keeps. -/
@[simp] theorem ctSet_keeps (b : Byte) (e : CodeEntry) (s : State) :
    (ctSet b e s).cfg = s.cfg ∧ (ctSet b e s).err = s.err ∧ (ctSet b e s).subErr = s.subErr ∧
    (ctSet b e s).srcLen = s.srcLen ∧ (ctSet b e s).countIn = s.countIn ∧ (ctSet b e s).countOut = s.countOut ∧
    (ctSet b e s).ft = s.ft ∧ (ctSet b e s).nchar = s.nchar ∧ (ctSet b e s).phase = s.phase ∧
    (ctSet b e s).mode = s.mode ∧ (ctSet b e s).idx = s.idx ∧ (ctSet b e s).symi = s.symi ∧
    (ctSet b e s).reci = s.reci ∧ (ctSet b e s).prev = s.prev ∧ (ctSet b e s).emi = s.emi ∧
    (ctSet b e s).cur = s.cur ∧ (ctSet b e s).nodep = s.nodep ∧ (ctSet b e s).outcnt = s.outcnt ∧
    (ctSet b e s).node = s.node ∧ (ctSet b e s).nnode = s.nnode ∧ (ctSet b e s).active = s.active ∧
    (ctSet b e s).nact = s.nact ∧ (ctSet b e s).root = s.root ∧ (ctSet b e s).rootValid = s.rootValid ∧
    (ctSet b e s).stk = s.stk ∧ (ctSet b e s).sp = s.sp ∧ (ctSet b e s).path = s.path ∧ (ctSet b e s).acc = s.acc ∧
    (ctSet b e s).nb = s.nb ∧ (ctSet b e s).bitcnt = s.bitcnt ∧ (ctSet b e s).pbuf = s.pbuf ∧
    (ctSet b e s).plen = s.plen ∧ (ctSet b e s).paylen = s.paylen ∧ (ctSet b e s).poff = s.poff ∧
    (ctSet b e s).src = s.src ∧ (ctSet b e s).snk = s.snk ∧ (ctSet b e s).srcOk = s.srcOk ∧
    (ctSet b e s).srcOkNext = s.srcOkNext ∧ (ctSet b e s).snkOk = s.snkOk ∧ (ctSet b e s).snkOkNext = s.snkOkNext ∧
    (ctSet b e s).host = s.host ∧ (ctSet b e s).rdata = s.rdata ∧ (ctSet b e s).draws = s.draws := by
  refine ⟨?_, ?_, ?_, ?_, ?_, ?_, ?_, ?_, ?_, ?_, ?_, ?_, ?_, ?_, ?_, ?_, ?_, ?_, ?_, ?_, ?_, ?_, ?_, ?_, ?_, ?_, ?_, ?_, ?_, ?_, ?_, ?_, ?_, ?_, ?_, ?_, ?_, ?_, ?_, ?_, ?_, ?_, ?_⟩ <;> rfl

/-- HIST.CLR (spec/40_histogram.md R121): what it writes. -/
@[simp] theorem histClr_writes (s : State) :
    (histClr s).ft = Vector.replicate 256 0 := by
  exact rfl

/-- HIST.CLR (spec/40_histogram.md R121): what it keeps. -/
@[simp] theorem histClr_keeps (s : State) :
    (histClr s).cfg = s.cfg ∧ (histClr s).err = s.err ∧ (histClr s).subErr = s.subErr ∧
    (histClr s).srcLen = s.srcLen ∧ (histClr s).countIn = s.countIn ∧ (histClr s).countOut = s.countOut ∧
    (histClr s).nchar = s.nchar ∧ (histClr s).phase = s.phase ∧ (histClr s).mode = s.mode ∧ (histClr s).idx = s.idx ∧
    (histClr s).symi = s.symi ∧ (histClr s).reci = s.reci ∧ (histClr s).prev = s.prev ∧ (histClr s).emi = s.emi ∧
    (histClr s).cur = s.cur ∧ (histClr s).nodep = s.nodep ∧ (histClr s).outcnt = s.outcnt ∧
    (histClr s).node = s.node ∧ (histClr s).nnode = s.nnode ∧ (histClr s).active = s.active ∧
    (histClr s).nact = s.nact ∧ (histClr s).root = s.root ∧ (histClr s).rootValid = s.rootValid ∧
    (histClr s).ct = s.ct ∧ (histClr s).stk = s.stk ∧ (histClr s).sp = s.sp ∧ (histClr s).path = s.path ∧
    (histClr s).acc = s.acc ∧ (histClr s).nb = s.nb ∧ (histClr s).bitcnt = s.bitcnt ∧ (histClr s).pbuf = s.pbuf ∧
    (histClr s).plen = s.plen ∧ (histClr s).paylen = s.paylen ∧ (histClr s).poff = s.poff ∧ (histClr s).src = s.src ∧
    (histClr s).snk = s.snk ∧ (histClr s).srcOk = s.srcOk ∧ (histClr s).srcOkNext = s.srcOkNext ∧
    (histClr s).snkOk = s.snkOk ∧ (histClr s).snkOkNext = s.snkOkNext ∧ (histClr s).host = s.host ∧
    (histClr s).rdata = s.rdata ∧ (histClr s).draws = s.draws := by
  refine ⟨?_, ?_, ?_, ?_, ?_, ?_, ?_, ?_, ?_, ?_, ?_, ?_, ?_, ?_, ?_, ?_, ?_, ?_, ?_, ?_, ?_, ?_, ?_, ?_, ?_, ?_, ?_, ?_, ?_, ?_, ?_, ?_, ?_, ?_, ?_, ?_, ?_, ?_, ?_, ?_, ?_, ?_, ?_⟩ <;> rfl

/-- HIST.LOAD (spec/40_histogram.md R124): what it writes. -/
@[simp] theorem histLoad_writes (b : Byte) (f : Word64) (s : State) :
    (histLoad b f s).ft = s.ft.set b.toNat f b.isLt := by
  exact rfl

/-- HIST.LOAD (spec/40_histogram.md R124): what it keeps. -/
@[simp] theorem histLoad_keeps (b : Byte) (f : Word64) (s : State) :
    (histLoad b f s).cfg = s.cfg ∧ (histLoad b f s).err = s.err ∧ (histLoad b f s).subErr = s.subErr ∧
    (histLoad b f s).srcLen = s.srcLen ∧ (histLoad b f s).countIn = s.countIn ∧
    (histLoad b f s).countOut = s.countOut ∧ (histLoad b f s).nchar = s.nchar ∧ (histLoad b f s).phase = s.phase ∧
    (histLoad b f s).mode = s.mode ∧ (histLoad b f s).idx = s.idx ∧ (histLoad b f s).symi = s.symi ∧
    (histLoad b f s).reci = s.reci ∧ (histLoad b f s).prev = s.prev ∧ (histLoad b f s).emi = s.emi ∧
    (histLoad b f s).cur = s.cur ∧ (histLoad b f s).nodep = s.nodep ∧ (histLoad b f s).outcnt = s.outcnt ∧
    (histLoad b f s).node = s.node ∧ (histLoad b f s).nnode = s.nnode ∧ (histLoad b f s).active = s.active ∧
    (histLoad b f s).nact = s.nact ∧ (histLoad b f s).root = s.root ∧ (histLoad b f s).rootValid = s.rootValid ∧
    (histLoad b f s).ct = s.ct ∧ (histLoad b f s).stk = s.stk ∧ (histLoad b f s).sp = s.sp ∧
    (histLoad b f s).path = s.path ∧ (histLoad b f s).acc = s.acc ∧ (histLoad b f s).nb = s.nb ∧
    (histLoad b f s).bitcnt = s.bitcnt ∧ (histLoad b f s).pbuf = s.pbuf ∧ (histLoad b f s).plen = s.plen ∧
    (histLoad b f s).paylen = s.paylen ∧ (histLoad b f s).poff = s.poff ∧ (histLoad b f s).src = s.src ∧
    (histLoad b f s).snk = s.snk ∧ (histLoad b f s).srcOk = s.srcOk ∧ (histLoad b f s).srcOkNext = s.srcOkNext ∧
    (histLoad b f s).snkOk = s.snkOk ∧ (histLoad b f s).snkOkNext = s.snkOkNext ∧ (histLoad b f s).host = s.host ∧
    (histLoad b f s).rdata = s.rdata ∧ (histLoad b f s).draws = s.draws := by
  refine ⟨?_, ?_, ?_, ?_, ?_, ?_, ?_, ?_, ?_, ?_, ?_, ?_, ?_, ?_, ?_, ?_, ?_, ?_, ?_, ?_, ?_, ?_, ?_, ?_, ?_, ?_, ?_, ?_, ?_, ?_, ?_, ?_, ?_, ?_, ?_, ?_, ?_, ?_, ?_, ?_, ?_, ?_, ?_⟩ <;> rfl

/-- One micro-step of HIST (spec/40_histogram.md R122): what it writes. -/
@[simp] theorem histCount_writes (b : Byte) (s : State) :
    (histCount b s).ft = s.ft.set b.toNat (ftGet s b + 1) b.isLt ∧ (histCount b s).idx = s.idx + 1 := by
  exact ⟨rfl, rfl⟩

/-- One micro-step of HIST (spec/40_histogram.md R122): what it keeps. -/
@[simp] theorem histCount_keeps (b : Byte) (s : State) :
    (histCount b s).cfg = s.cfg ∧ (histCount b s).err = s.err ∧ (histCount b s).subErr = s.subErr ∧
    (histCount b s).srcLen = s.srcLen ∧ (histCount b s).countIn = s.countIn ∧ (histCount b s).countOut = s.countOut ∧
    (histCount b s).nchar = s.nchar ∧ (histCount b s).phase = s.phase ∧ (histCount b s).mode = s.mode ∧
    (histCount b s).symi = s.symi ∧ (histCount b s).reci = s.reci ∧ (histCount b s).prev = s.prev ∧
    (histCount b s).emi = s.emi ∧ (histCount b s).cur = s.cur ∧ (histCount b s).nodep = s.nodep ∧
    (histCount b s).outcnt = s.outcnt ∧ (histCount b s).node = s.node ∧ (histCount b s).nnode = s.nnode ∧
    (histCount b s).active = s.active ∧ (histCount b s).nact = s.nact ∧ (histCount b s).root = s.root ∧
    (histCount b s).rootValid = s.rootValid ∧ (histCount b s).ct = s.ct ∧ (histCount b s).stk = s.stk ∧
    (histCount b s).sp = s.sp ∧ (histCount b s).path = s.path ∧ (histCount b s).acc = s.acc ∧
    (histCount b s).nb = s.nb ∧ (histCount b s).bitcnt = s.bitcnt ∧ (histCount b s).pbuf = s.pbuf ∧
    (histCount b s).plen = s.plen ∧ (histCount b s).paylen = s.paylen ∧ (histCount b s).poff = s.poff ∧
    (histCount b s).src = s.src ∧ (histCount b s).snk = s.snk ∧ (histCount b s).srcOk = s.srcOk ∧
    (histCount b s).srcOkNext = s.srcOkNext ∧ (histCount b s).snkOk = s.snkOk ∧
    (histCount b s).snkOkNext = s.snkOkNext ∧ (histCount b s).host = s.host ∧ (histCount b s).rdata = s.rdata ∧
    (histCount b s).draws = s.draws := by
  refine ⟨?_, ?_, ?_, ?_, ?_, ?_, ?_, ?_, ?_, ?_, ?_, ?_, ?_, ?_, ?_, ?_, ?_, ?_, ?_, ?_, ?_, ?_, ?_, ?_, ?_, ?_, ?_, ?_, ?_, ?_, ?_, ?_, ?_, ?_, ?_, ?_, ?_, ?_, ?_, ?_, ?_, ?_⟩ <;> rfl

/-- A new node (spec/41_tree_builder.md R142, R144): what it writes. -/
@[simp] theorem allocNode_writes (n : Node) (s : State) :
    (allocNode n s).node = setEntry s.node s.nnode.toNat n ∧
    (allocNode n s).active = setEntry s.active s.nnode.toNat true ∧ (allocNode n s).nnode = s.nnode + 1 ∧
    (allocNode n s).nact = s.nact + 1 := by
  exact ⟨rfl, rfl, rfl, rfl⟩

/-- A new node (spec/41_tree_builder.md R142, R144): what it keeps. -/
@[simp] theorem allocNode_keeps (n : Node) (s : State) :
    (allocNode n s).cfg = s.cfg ∧ (allocNode n s).err = s.err ∧ (allocNode n s).subErr = s.subErr ∧
    (allocNode n s).srcLen = s.srcLen ∧ (allocNode n s).countIn = s.countIn ∧ (allocNode n s).countOut = s.countOut ∧
    (allocNode n s).ft = s.ft ∧ (allocNode n s).nchar = s.nchar ∧ (allocNode n s).phase = s.phase ∧
    (allocNode n s).mode = s.mode ∧ (allocNode n s).idx = s.idx ∧ (allocNode n s).symi = s.symi ∧
    (allocNode n s).reci = s.reci ∧ (allocNode n s).prev = s.prev ∧ (allocNode n s).emi = s.emi ∧
    (allocNode n s).cur = s.cur ∧ (allocNode n s).nodep = s.nodep ∧ (allocNode n s).outcnt = s.outcnt ∧
    (allocNode n s).root = s.root ∧ (allocNode n s).rootValid = s.rootValid ∧ (allocNode n s).ct = s.ct ∧
    (allocNode n s).stk = s.stk ∧ (allocNode n s).sp = s.sp ∧ (allocNode n s).path = s.path ∧
    (allocNode n s).acc = s.acc ∧ (allocNode n s).nb = s.nb ∧ (allocNode n s).bitcnt = s.bitcnt ∧
    (allocNode n s).pbuf = s.pbuf ∧ (allocNode n s).plen = s.plen ∧ (allocNode n s).paylen = s.paylen ∧
    (allocNode n s).poff = s.poff ∧ (allocNode n s).src = s.src ∧ (allocNode n s).snk = s.snk ∧
    (allocNode n s).srcOk = s.srcOk ∧ (allocNode n s).srcOkNext = s.srcOkNext ∧ (allocNode n s).snkOk = s.snkOk ∧
    (allocNode n s).snkOkNext = s.snkOkNext ∧ (allocNode n s).host = s.host ∧ (allocNode n s).rdata = s.rdata ∧
    (allocNode n s).draws = s.draws := by
  refine ⟨?_, ?_, ?_, ?_, ?_, ?_, ?_, ?_, ?_, ?_, ?_, ?_, ?_, ?_, ?_, ?_, ?_, ?_, ?_, ?_, ?_, ?_, ?_, ?_, ?_, ?_, ?_, ?_, ?_, ?_, ?_, ?_, ?_, ?_, ?_, ?_, ?_, ?_, ?_, ?_⟩ <;> rfl

/-- What LEAVES initialises (spec/41_tree_builder.md R142): what it writes. -/
@[simp] theorem leavesInit_writes (s : State) :
    (leavesInit s).nnode = 0 ∧ (leavesInit s).nact = 0 ∧ (leavesInit s).rootValid = false ∧
    (leavesInit s).active = Vector.replicate 511 false ∧ (leavesInit s).symi = 0 := by
  exact ⟨rfl, rfl, rfl, rfl, rfl⟩

/-- What LEAVES initialises (spec/41_tree_builder.md R142): what it keeps. -/
@[simp] theorem leavesInit_keeps (s : State) :
    (leavesInit s).cfg = s.cfg ∧ (leavesInit s).err = s.err ∧ (leavesInit s).subErr = s.subErr ∧
    (leavesInit s).srcLen = s.srcLen ∧ (leavesInit s).countIn = s.countIn ∧ (leavesInit s).countOut = s.countOut ∧
    (leavesInit s).ft = s.ft ∧ (leavesInit s).nchar = s.nchar ∧ (leavesInit s).phase = s.phase ∧
    (leavesInit s).mode = s.mode ∧ (leavesInit s).idx = s.idx ∧ (leavesInit s).reci = s.reci ∧
    (leavesInit s).prev = s.prev ∧ (leavesInit s).emi = s.emi ∧ (leavesInit s).cur = s.cur ∧
    (leavesInit s).nodep = s.nodep ∧ (leavesInit s).outcnt = s.outcnt ∧ (leavesInit s).node = s.node ∧
    (leavesInit s).root = s.root ∧ (leavesInit s).ct = s.ct ∧ (leavesInit s).stk = s.stk ∧ (leavesInit s).sp = s.sp ∧
    (leavesInit s).path = s.path ∧ (leavesInit s).acc = s.acc ∧ (leavesInit s).nb = s.nb ∧
    (leavesInit s).bitcnt = s.bitcnt ∧ (leavesInit s).pbuf = s.pbuf ∧ (leavesInit s).plen = s.plen ∧
    (leavesInit s).paylen = s.paylen ∧ (leavesInit s).poff = s.poff ∧ (leavesInit s).src = s.src ∧
    (leavesInit s).snk = s.snk ∧ (leavesInit s).srcOk = s.srcOk ∧ (leavesInit s).srcOkNext = s.srcOkNext ∧
    (leavesInit s).snkOk = s.snkOk ∧ (leavesInit s).snkOkNext = s.snkOkNext ∧ (leavesInit s).host = s.host ∧
    (leavesInit s).rdata = s.rdata ∧ (leavesInit s).draws = s.draws := by
  refine ⟨?_, ?_, ?_, ?_, ?_, ?_, ?_, ?_, ?_, ?_, ?_, ?_, ?_, ?_, ?_, ?_, ?_, ?_, ?_, ?_, ?_, ?_, ?_, ?_, ?_, ?_, ?_, ?_, ?_, ?_, ?_, ?_, ?_, ?_, ?_, ?_, ?_, ?_, ?_⟩ <;> rfl

/-- `pop` (spec/42_code_table.md R163): what it writes. -/
@[simp] theorem popStk_writes (s : State) :
    (popStk s).sp = s.sp - 1 ∧
    (popStk s).path = (if (topStk s).depth = 0 then s.path else setEntry s.path ((topStk s).depth.toNat - 1) (topStk s).bit) := by
  exact ⟨rfl, rfl⟩

/-- `pop` (spec/42_code_table.md R163): what it keeps. -/
@[simp] theorem popStk_keeps (s : State) :
    (popStk s).cfg = s.cfg ∧ (popStk s).err = s.err ∧ (popStk s).subErr = s.subErr ∧ (popStk s).srcLen = s.srcLen ∧
    (popStk s).countIn = s.countIn ∧ (popStk s).countOut = s.countOut ∧ (popStk s).ft = s.ft ∧
    (popStk s).nchar = s.nchar ∧ (popStk s).phase = s.phase ∧ (popStk s).mode = s.mode ∧ (popStk s).idx = s.idx ∧
    (popStk s).symi = s.symi ∧ (popStk s).reci = s.reci ∧ (popStk s).prev = s.prev ∧ (popStk s).emi = s.emi ∧
    (popStk s).cur = s.cur ∧ (popStk s).nodep = s.nodep ∧ (popStk s).outcnt = s.outcnt ∧ (popStk s).node = s.node ∧
    (popStk s).nnode = s.nnode ∧ (popStk s).active = s.active ∧ (popStk s).nact = s.nact ∧ (popStk s).root = s.root ∧
    (popStk s).rootValid = s.rootValid ∧ (popStk s).ct = s.ct ∧ (popStk s).stk = s.stk ∧ (popStk s).acc = s.acc ∧
    (popStk s).nb = s.nb ∧ (popStk s).bitcnt = s.bitcnt ∧ (popStk s).pbuf = s.pbuf ∧ (popStk s).plen = s.plen ∧
    (popStk s).paylen = s.paylen ∧ (popStk s).poff = s.poff ∧ (popStk s).src = s.src ∧ (popStk s).snk = s.snk ∧
    (popStk s).srcOk = s.srcOk ∧ (popStk s).srcOkNext = s.srcOkNext ∧ (popStk s).snkOk = s.snkOk ∧
    (popStk s).snkOkNext = s.snkOkNext ∧ (popStk s).host = s.host ∧ (popStk s).rdata = s.rdata ∧
    (popStk s).draws = s.draws := by
  refine ⟨?_, ?_, ?_, ?_, ?_, ?_, ?_, ?_, ?_, ?_, ?_, ?_, ?_, ?_, ?_, ?_, ?_, ?_, ?_, ?_, ?_, ?_, ?_, ?_, ?_, ?_, ?_, ?_, ?_, ?_, ?_, ?_, ?_, ?_, ?_, ?_, ?_, ?_, ?_, ?_, ?_, ?_⟩ <;> rfl

/-- The clearing of the code table (spec/42_code_table.md R161): what it writes. -/
@[simp] theorem ctClear_writes (s : State) :
    (ctClear s).ct = (s.ct.map fun e => { e with valid := false }) := by
  exact rfl

/-- The clearing of the code table (spec/42_code_table.md R161): what it keeps. -/
@[simp] theorem ctClear_keeps (s : State) :
    (ctClear s).cfg = s.cfg ∧ (ctClear s).err = s.err ∧ (ctClear s).subErr = s.subErr ∧
    (ctClear s).srcLen = s.srcLen ∧ (ctClear s).countIn = s.countIn ∧ (ctClear s).countOut = s.countOut ∧
    (ctClear s).ft = s.ft ∧ (ctClear s).nchar = s.nchar ∧ (ctClear s).phase = s.phase ∧ (ctClear s).mode = s.mode ∧
    (ctClear s).idx = s.idx ∧ (ctClear s).symi = s.symi ∧ (ctClear s).reci = s.reci ∧ (ctClear s).prev = s.prev ∧
    (ctClear s).emi = s.emi ∧ (ctClear s).cur = s.cur ∧ (ctClear s).nodep = s.nodep ∧ (ctClear s).outcnt = s.outcnt ∧
    (ctClear s).node = s.node ∧ (ctClear s).nnode = s.nnode ∧ (ctClear s).active = s.active ∧
    (ctClear s).nact = s.nact ∧ (ctClear s).root = s.root ∧ (ctClear s).rootValid = s.rootValid ∧
    (ctClear s).stk = s.stk ∧ (ctClear s).sp = s.sp ∧ (ctClear s).path = s.path ∧ (ctClear s).acc = s.acc ∧
    (ctClear s).nb = s.nb ∧ (ctClear s).bitcnt = s.bitcnt ∧ (ctClear s).pbuf = s.pbuf ∧ (ctClear s).plen = s.plen ∧
    (ctClear s).paylen = s.paylen ∧ (ctClear s).poff = s.poff ∧ (ctClear s).src = s.src ∧ (ctClear s).snk = s.snk ∧
    (ctClear s).srcOk = s.srcOk ∧ (ctClear s).srcOkNext = s.srcOkNext ∧ (ctClear s).snkOk = s.snkOk ∧
    (ctClear s).snkOkNext = s.snkOkNext ∧ (ctClear s).host = s.host ∧ (ctClear s).rdata = s.rdata ∧
    (ctClear s).draws = s.draws := by
  refine ⟨?_, ?_, ?_, ?_, ?_, ?_, ?_, ?_, ?_, ?_, ?_, ?_, ?_, ?_, ?_, ?_, ?_, ?_, ?_, ?_, ?_, ?_, ?_, ?_, ?_, ?_, ?_, ?_, ?_, ?_, ?_, ?_, ?_, ?_, ?_, ?_, ?_, ?_, ?_, ?_, ?_, ?_, ?_⟩ <;> rfl

/-- BP.INIT (spec/43_bit_packer.md R176): what it writes. -/
@[simp] theorem bpInit_writes (s : State) :
    (bpInit s).acc = 0 ∧ (bpInit s).nb = 0 ∧ (bpInit s).bitcnt = 0 ∧ (bpInit s).plen = 0 := by
  exact ⟨rfl, rfl, rfl, rfl⟩

/-- BP.INIT (spec/43_bit_packer.md R176): what it keeps. -/
@[simp] theorem bpInit_keeps (s : State) :
    (bpInit s).cfg = s.cfg ∧ (bpInit s).err = s.err ∧ (bpInit s).subErr = s.subErr ∧ (bpInit s).srcLen = s.srcLen ∧
    (bpInit s).countIn = s.countIn ∧ (bpInit s).countOut = s.countOut ∧ (bpInit s).ft = s.ft ∧
    (bpInit s).nchar = s.nchar ∧ (bpInit s).phase = s.phase ∧ (bpInit s).mode = s.mode ∧ (bpInit s).idx = s.idx ∧
    (bpInit s).symi = s.symi ∧ (bpInit s).reci = s.reci ∧ (bpInit s).prev = s.prev ∧ (bpInit s).emi = s.emi ∧
    (bpInit s).cur = s.cur ∧ (bpInit s).nodep = s.nodep ∧ (bpInit s).outcnt = s.outcnt ∧ (bpInit s).node = s.node ∧
    (bpInit s).nnode = s.nnode ∧ (bpInit s).active = s.active ∧ (bpInit s).nact = s.nact ∧ (bpInit s).root = s.root ∧
    (bpInit s).rootValid = s.rootValid ∧ (bpInit s).ct = s.ct ∧ (bpInit s).stk = s.stk ∧ (bpInit s).sp = s.sp ∧
    (bpInit s).path = s.path ∧ (bpInit s).pbuf = s.pbuf ∧ (bpInit s).paylen = s.paylen ∧ (bpInit s).poff = s.poff ∧
    (bpInit s).src = s.src ∧ (bpInit s).snk = s.snk ∧ (bpInit s).srcOk = s.srcOk ∧
    (bpInit s).srcOkNext = s.srcOkNext ∧ (bpInit s).snkOk = s.snkOk ∧ (bpInit s).snkOkNext = s.snkOkNext ∧
    (bpInit s).host = s.host ∧ (bpInit s).rdata = s.rdata ∧ (bpInit s).draws = s.draws := by
  refine ⟨?_, ?_, ?_, ?_, ?_, ?_, ?_, ?_, ?_, ?_, ?_, ?_, ?_, ?_, ?_, ?_, ?_, ?_, ?_, ?_, ?_, ?_, ?_, ?_, ?_, ?_, ?_, ?_, ?_, ?_, ?_, ?_, ?_, ?_, ?_, ?_, ?_, ?_, ?_, ?_⟩ <;> rfl

end Sys2Proof.Machine
end

