-- ==== Sys2Proof/Laws/Ops.lean ====
section
/-! SUPPORT. For each shared operation, what it can do, said once: the sequencing of pieces, the samples of the inputs, MemRead, the appends to the sink, the start of a command, and
the entries of the register files. -/

namespace Sys2Proof.Machine

open Sys2Proof.Safety

/-! ## Sequencing -/

section Sequencing
variable {α β : Type}

@[simp] theorem andThen_ok (a : α) (s : State) (k : α → State → Res β) : andThen (.ok a s) k = k a s := rfl

@[simp] theorem andThen_abort (s : State) (k : α → State → Res β) : andThen (.abort s) k = .abort s := rfl

@[simp] theorem andThen_fault (f : Fault) (k : α → State → Res β) : andThen (.fault f) k = .fault f := rfl

theorem andThen_eq_ok (r : Res α) (k : α → State → Res β) (b : β) (t : State) :
    andThen r k = .ok b t ↔ ∃ a s, r = .ok a s ∧ k a s = .ok b t := by
  cases r <;> simp [andThen]

theorem andThen_eq_abort (r : Res α) (k : α → State → Res β) (t : State) :
    andThen r k = .abort t ↔ r = .abort t ∨ ∃ a s, r = .ok a s ∧ k a s = .abort t := by
  cases r <;> simp [andThen]

theorem andThen_eq_fault (r : Res α) (k : α → State → Res β) (f : Fault) :
    andThen r k = .fault f ↔ r = .fault f ∨ ∃ a s, r = .ok a s ∧ k a s = .fault f := by
  cases r <;> simp [andThen]

theorem andThen_assoc {γ : Type} (r : Res α) (k : α → State → Res β) (l : β → State → Res γ) :
    andThen (andThen r k) l = andThen r fun a s => andThen (k a s) l := by
  cases r <;> rfl

end Sequencing

@[simp] theorem finish_ok (s : State) : finish (.ok () s) = .next s := rfl

@[simp] theorem finish_abort (s : State) : finish (.abort s) = .next s := rfl

@[simp] theorem finish_fault (f : Fault) : finish (.fault f) = .fault f := rfl

theorem finish_eq_next (r : Res Unit) (t : State) : finish r = .next t ↔ r = .ok () t ∨ r = .abort t := by
  cases r <;> simp [finish]

theorem finish_eq_fault (r : Res Unit) (f : Fault) : finish r = .fault f ↔ r = .fault f := by
  cases r <;> simp [finish]

theorem finish_ne_refused (r : Res Unit) (x : Refusal) : finish r ≠ .refused x := by
  cases r <;> simp [finish]

/-! ## Samples -/

theorem sampleSrc_eq (s : State) : sampleSrc s = (srcSample s 0, { s with srcOkNext := s.srcOkNext.tail }) := by
  unfold sampleSrc srcSample sampleAt
  split
  · next h => rw [h]; cases s; simp_all
  · next h => simp [h]

theorem sampleSnk_eq (s : State) : sampleSnk s = (snkSample s 0, { s with snkOkNext := s.snkOkNext.tail }) := by
  unfold sampleSnk snkSample sampleAt
  split
  · next h => rw [h]; cases s; simp_all
  · next h => simp [h]

/-- After `n` samples the coming ones are counted on from there, whatever else changed. -/
theorem sampleAt_drop (next : List Bool) (level : Bool) (n k : Nat) :
    sampleAt (next.drop n) level k = sampleAt next level (n + k) := by
  simp [sampleAt]

theorem sampleAt_tail (next : List Bool) (level : Bool) (k : Nat) :
    sampleAt next.tail level k = sampleAt next level (k + 1) := by
  simp [sampleAt]

/-! ## Reads -/

theorem memRead_eq (a n : Nat) (c : SubCause) (s : State) :
    memRead a n c s =
      if srcSample s 0 = false then raise .sourceUnavailable .none { s with srcOkNext := s.srcOkNext.tail }
      else if s.srcLen.toNat < a + n then raise .formatError c { s with srcOkNext := s.srcOkNext.tail }
      else .ok (leNat (readBytes s.src a n)) { s with srcOkNext := s.srcOkNext.tail } := by
  unfold memRead
  rw [sampleSrc_eq]
  cases h : srcSample s 0 <;> simp

theorem srcRead_eq (a : Nat) (s : State) :
    srcRead a s =
      if srcSample s 0 = false then raise .sourceUnavailable .none { s with srcOkNext := s.srcOkNext.tail }
      else if s.srcLen.toNat < a + 1 then raise .formatError .none { s with srcOkNext := s.srcOkNext.tail }
      else .ok (readByte s.src a) { s with srcOkNext := s.srcOkNext.tail } := by
  unfold srcRead
  rw [memRead_eq]
  split
  · rfl
  · split
    · rfl
    · simp [readBytes, leNat]

theorem memRead_ne_fault (a n : Nat) (c : SubCause) (s : State) (f : Fault) : memRead a n c s ≠ .fault f := by
  rw [memRead_eq]
  unfold raise
  split <;> [simp; split <;> simp]

/-- The bytes from an address on, by their distance from it. -/
theorem readBytes_eq_map (m : Memory) (a n : Nat) : readBytes m a n = (List.range n).map fun k => readByte m (a + k) := by
  induction n generalizing a with
  | zero => rfl
  | succ n ih =>
    rw [List.range_succ_eq_map, readBytes, ih]
    simp [Function.comp_def, Nat.add_comm, Nat.add_left_comm]

/-! ## Appends -/

/-- One counted byte and then `n` more are `n + 1` counted bytes. -/
theorem count_succ (x : Word64) (n : Nat) : x + 1#64 + BitVec.ofNat 64 n = x + BitVec.ofNat 64 (n + 1) := by
  rw [BitVec.ofNat_add]
  ac_rfl

theorem sinkBytes_cons (b : Byte) (bs : List Byte) (s : State) :
    sinkBytes (b :: bs) s =
      if snkSample s 0 = false then raise .sinkError .none { s with snkOkNext := s.snkOkNext.tail }
      else sinkBytes bs (appendByte b { s with snkOkNext := s.snkOkNext.tail }) := by
  rw [sinkBytes, sampleSnk_eq]
  cases h : snkSample s 0 <;> simp

theorem sinkWrite_eq (b : Byte) (s : State) : sinkWrite b s = sinkBytes [b] s := by
  simp [sinkWrite, memWrite, leBytes]

theorem sinkBytes_append (bs cs : List Byte) (s : State) :
    sinkBytes (bs ++ cs) s = andThen (sinkBytes bs s) fun _ t => sinkBytes cs t := by
  induction bs generalizing s with
  | nil => rfl
  | cons b bs ih =>
    rw [List.cons_append, sinkBytes_cons, sinkBytes_cons]
    split
    · rfl
    · exact ih _

/-- Appends that all went well: the bytes are at the end of the sink, counted, and one sample each was used. -/
theorem sinkBytes_ok (bs : List Byte) (s t : State) (u : Unit) (h : sinkBytes bs s = .ok u t) :
    t = { s with
      snk := s.snk ++ bs, outcnt := s.outcnt + BitVec.ofNat 64 bs.length, snkOkNext := s.snkOkNext.drop bs.length } := by
  induction bs generalizing s with
  | nil =>
    simp only [sinkBytes, Res.ok.injEq] at h
    simp [h.2]
  | cons b bs ih =>
    rw [sinkBytes_cons] at h
    split at h
    · simp [raise] at h
    · rw [ih _ h]
      simp only [appendByte, List.append_assoc, List.singleton_append, List.length_cons, List.drop_tail, State.mk.injEq]
      simp [count_succ]

/-- Appends that ended in an abort: it is the sink's, at a sample of 0, and the bytes before it were appended. -/
theorem sinkBytes_abort (bs : List Byte) (s t : State) (h : sinkBytes bs s = .abort t) :
    ∃ k < bs.length, snkSample s k = false ∧
      t = takeAbort .sinkError .none { s with
        snk := s.snk ++ bs.take k, outcnt := s.outcnt + BitVec.ofNat 64 k, snkOkNext := s.snkOkNext.drop (k + 1) } := by
  induction bs generalizing s with
  | nil => simp [sinkBytes] at h
  | cons b bs ih =>
    rw [sinkBytes_cons] at h
    split at h
    · next hs =>
      refine ⟨0, by simp, hs, ?_⟩
      simp only [raise, Res.abort.injEq] at h
      simp [← h]
    · obtain ⟨k, hk, hs, ht⟩ := ih _ h
      refine ⟨k + 1, by simpa using hk, ?_, ?_⟩
      · simpa [snkSample, appendByte, sampleAt_tail] using hs
      · rw [ht]
        congr 1
        simp only [appendByte, List.append_assoc, List.singleton_append, List.take_succ_cons, List.drop_tail, State.mk.injEq]
        simp [count_succ]

theorem sinkBytes_ne_fault (bs : List Byte) (s : State) (f : Fault) : sinkBytes bs s ≠ .fault f := by
  induction bs generalizing s with
  | nil => simp [sinkBytes]
  | cons b bs ih =>
    rw [sinkBytes_cons]
    split
    · simp [raise]
    · exact ih _

/-! ## Aborts -/

/-- An abort of a command that has appended the bytes `bs` since `s`, all of them counted, leaves of the sink what `abortedFrom` says. -/
theorem abortedFrom_takeAbort (e : ErrKind) (c : SubCause) (s u : State) (bs : List Byte) (hsnk : u.snk = s.snk ++ bs)
    (hcnt : u.outcnt.toNat = s.outcnt.toNat + bs.length) : abortedFrom s (takeAbort e c u) := by
  refine ⟨rfl, rfl, rfl, Config.sinkAfterFailure u.draws, ?_⟩
  have h : u.snk.length - u.outcnt.toNat = s.snk.length - s.outcnt.toNat := by
    rw [hsnk, hcnt, List.length_append]
    omega
  rw [(takeAbort_writes e c u).2.2.2.2.2.1, h, hsnk, List.take_append_of_le_length (Nat.sub_le _ _)]

/-! ## The start of a command -/

theorem startCommand_eq (m : Mode) (i : Instr) (s : State) :
    startCommand m i s =
      if srcSample s 0 = false then raise .sourceUnavailable .none { accept m s with srcOkNext := s.srcOkNext.tail }
      else if s.cfg.srcCap.toNat < s.srcLen.toNat then
        raise .sourceUnavailable .tooLong { accept m s with srcOkNext := s.srcOkNext.tail }
      else .ok () (toPhase i { accept m s with srcOkNext := s.srcOkNext.tail }) := by
  unfold startCommand
  rw [sampleSrc_eq]
  have h : srcSample (accept m s) 0 = srcSample s 0 := rfl
  rw [h]
  cases srcSample s 0 <;> rfl

/-! ## Entries of the register files -/

theorem ftGet_ftSet (b c : Byte) (v : Word64) (s : State) : ftGet (ftSet b v s) c = if b = c then v else ftGet s c := by
  unfold ftGet ftSet
  rw [Vector.getElem_set]
  simp [BitVec.toNat_inj]

theorem ctGet_ctSet (b c : Byte) (e : CodeEntry) (s : State) : ctGet (ctSet b e s) c = if b = c then e else ctGet s c := by
  unfold ctGet ctSet
  rw [Vector.getElem_set]
  simp [BitVec.toNat_inj]

theorem getElem?_setEntry {α : Type} {n : Nat} (v : Vector α n) (i k : Nat) (a : α) :
    (setEntry v i a)[k]? = if i = k ∧ k < n then some a else v[k]? := by
  unfold setEntry
  split
  · next h =>
    rw [Vector.getElem?_set]
    by_cases hk : i = k <;> simp_all
  · next h =>
    by_cases hk : i = k
    · subst hk; simp [h]
    · simp [hk]

theorem activeAt_eq (s : State) (k : Nat) (h : k < 511) : activeAt s k = s.active[k] := by
  simp [activeAt, h]

theorem nodeAt_eq_entry (s : State) (i : NodeIdx) : nodeAt s i = entry s i.toNat := rfl

theorem weightAt_eq_entry (s : State) (k : Nat) : weightAt s k = (entry s k).wt := rfl

/-- What `allocNode` does to the entries: entry NNODE is the new node, every other one is as before. -/
theorem entry_allocNode (n : Node) (s : State) (k : Nat) :
    entry (allocNode n s) k = if k = s.nnode.toNat ∧ k < 511 then n else entry s k := by
  unfold entry allocNode
  rw [getElem?_setEntry]
  by_cases h : s.nnode.toNat = k
  · subst h
    by_cases h2 : s.nnode.toNat < 511 <;> simp [h2]
  · simp [h, Ne.symm h]

theorem activeAt_allocNode (n : Node) (s : State) (k : Nat) :
    activeAt (allocNode n s) k = if k = s.nnode.toNat ∧ k < 511 then true else activeAt s k := by
  unfold activeAt allocNode
  rw [getElem?_setEntry]
  by_cases h : s.nnode.toNat = k
  · subst h
    by_cases h2 : s.nnode.toNat < 511 <;> simp [h2]
  · simp [h, Ne.symm h]

end Sys2Proof.Machine
end

