-- ==== Sys2Proof/Laws/PerInstr.lean ====
section
/-! SUPPORT. The family `CodeFits`: the code of every operation fits the field of its format, so the encoder drops no bit of it. -/

namespace Sys2Proof.Laws.CodeFits

open Sys2Proof

/-- How many bits the field of a format has (spec/30_encoding.md R91, R92). -/
def fieldWidth : Format → Nat
  | .cmd => 2
  | .phase => 4

/-- The code of the operation fits its format's field, and the operation is one byte long. -/
def Statement (i : Instr) : Prop := codeOf i < 2 ^ fieldWidth (formatOf i) ∧ (encode i).length = 1

theorem nop : Statement .nop := by unfold Statement; decide

theorem compress : Statement .compress := by unfold Statement; decide

theorem decompress : Statement .decompress := by unfold Statement; decide

theorem cmdReserved3 : Statement .cmdReserved3 := by unfold Statement; decide

theorem idle : Statement .idle := by unfold Statement; decide

theorem hist : Statement .hist := by unfold Statement; decide

theorem leaves : Statement .leaves := by unfold Statement; decide

theorem merge : Statement .merge := by unfold Statement; decide

theorem codes : Statement .codes := by unfold Statement; decide

theorem pack : Statement .pack := by unfold Statement; decide

theorem flush : Statement .flush := by unfold Statement; decide

theorem emit : Statement .emit := by unfold Statement; decide

theorem dhdr : Statement .dhdr := by unfold Statement; decide

theorem drecs : Statement .drecs := by unfold Statement; decide

theorem dbits : Statement .dbits := by unfold Statement; decide

theorem decode : Statement .decode := by unfold Statement; decide

theorem done : Statement .done := by unfold Statement; decide

theorem error : Statement .error := by unfold Statement; decide

theorem phaseUnreachable14 : Statement .phaseUnreachable14 := by unfold Statement; decide

theorem phaseUnreachable15 : Statement .phaseUnreachable15 := by unfold Statement; decide

end Sys2Proof.Laws.CodeFits
end

