-- ==== Sys2Proof/Tests/Slice0.lean ====
section
/-! SUPPORT. Tests: the ill-formed operations, the decoding of words written out from spec/30_encoding.md, single steps against the vectors of spec/95_test_vectors.md, and for every obligation with
hypotheses a state and operands that meet them. -/

namespace Sys2Proof.Tests

open Sys2Proof Sys2Proof.Machine Sys2Proof.Safety

set_option Elab.async false

/-! ## Well-formedness and decoding -/

theorem test_wf_refuses_14 : Instr.phaseUnreachable14.wellFormed = false := by decide

theorem test_wf_refuses_15 : Instr.phaseUnreachable15.wellFormed = false := by decide

theorem test_wf_accepts_error : Instr.error.wellFormed = true := by decide

/-- R91: the field `op`. -/
theorem test_decode_commands :
    decode .cmd [0b00000000#8] = .instr .nop [] ∧ decode .cmd [0b00000001#8] = .instr .compress [] ∧
    decode .cmd [0b00000010#8] = .instr .decompress [] ∧ decode .cmd [0b00000011#8] = .instr .cmdReserved3 [] := by decide

/-- R91, R98: bits above bit 1 of a command are ignored. -/
theorem test_decode_command_upper_bits :
    decode .cmd [0b11111101#8, 7#8] = .instr .compress [7#8] ∧ decode .cmd [0b00000100#8] = .instr .nop [] := by decide

/-- R92: the phases of both commands. -/
theorem test_decode_phases_low :
    decode .phase [0b00000000#8] = .instr .idle [] ∧ decode .phase [0b00000001#8] = .instr .hist [] ∧
    decode .phase [0b00000010#8] = .instr .leaves [] ∧ decode .phase [0b00000011#8] = .instr .merge [] ∧
    decode .phase [0b00000100#8] = .instr .codes [] ∧ decode .phase [0b00000101#8] = .instr .pack [] ∧
    decode .phase [0b00000110#8] = .instr .flush [] ∧ decode .phase [0b00000111#8] = .instr .emit [] := by decide

theorem test_decode_phases_high :
    decode .phase [0b00001000#8] = .instr .dhdr [] ∧ decode .phase [0b00001001#8] = .instr .drecs [] ∧
    decode .phase [0b00001010#8] = .instr .dbits [] ∧ decode .phase [0b00001011#8] = .instr .decode [] ∧
    decode .phase [0b00001100#8] = .instr .done [] ∧ decode .phase [0b00001101#8] = .instr .error [] ∧
    decode .phase [0b00001110#8] = .instr .phaseUnreachable14 [] ∧
    decode .phase [0b00001111#8] = .instr .phaseUnreachable15 [] := by decide

theorem test_decode_rejects :
    decode .phase [0b00010000#8] = .rejected .notFourBits ∧ decode .phase [] = .rejected .noByte ∧
    decode .cmd [] = .rejected .noByte := by decide

theorem test_table_words :
    decodeTableWord 2 1 = some .compress ∧ decodeTableWord 4 1 = some .hist ∧ decodeTableWord 4 11 = some .decode ∧
    decodeTableWord 4 16 = none := by decide

/-! ## States of the example X1 of spec/95_test_vectors.md -/

/-- Whether an outcome is a next state. -/
def isNext : Host.Outcome State Fault Refusal → Bool
  | .next _ => true
  | .fault _ => false
  | .refused _ => false

/-- The next state, if the outcome is one. -/
def after : Host.Outcome State Fault Refusal → State
  | .next t => t
  | .fault _ => State.reset
  | .refused _ => State.reset

theorem next_after (o : Host.Outcome State Fault Refusal) (h : isNext o = true) : o = .next (after o) := by
  cases o <;> simp_all [isNext, after]

/-- The machine after reset with a source. -/
def source (bs : List Byte) : State :=
  { State.reset with srcLen := BitVec.ofNat 64 bs.length, src := writeBytes [] 0 bs }

/-- `A A A B B C`. -/
def abc : State := source [0x41, 0x41, 0x41, 0x42, 0x42, 0x43]

/-- Before LEAVES. -/
def counted : State :=
  { abc with ft := ((State.reset.ft.set 0x41 3).set 0x42 2).set 0x43 1, phase := phaseCode .leaves }

/-- Before MERGE. -/
def leaves3 : State :=
  { counted with
    node := ((State.reset.node.set 0 (leafNode 0x41 3)).set 1 (leafNode 0x42 2)).set 2 (leafNode 0x43 1)
    active := ((State.reset.active.set 0 true).set 1 true).set 2 true
    nnode := 3, nact := 3, nchar := 3, symi := 256, phase := phaseCode .merge }

/-- Before CODES. -/
def tree3 : State :=
  { leaves3 with
    node := (leaves3.node.set 3 { leaf := false, sym := 0, wt := 3, zero := 2, one := 1 }).set 4
      { leaf := false, sym := 0, wt := 6, zero := 0, one := 3 }
    active := State.reset.active.set 4 true
    nnode := 5, nact := 1, root := 4, rootValid := true, phase := phaseCode .codes }

/-- Before PACK. -/
def coded3 : State :=
  { tree3 with
    ct := ((State.reset.ct.set 0x41 { valid := true, len := 1, bits := 0 }).set 0x43
      { valid := true, len := 2, bits := 0b10 }).set 0x42 { valid := true, len := 2, bits := 0b11 }
    phase := phaseCode .pack }

/-- Before FLUSH. -/
def packed3 : State :=
  { coded3 with acc := 0, nb := 1, bitcnt := 9, plen := 1, pbuf := [(0, 0x1F)], idx := 6, phase := phaseCode .flush }

/-- Before EMIT. -/
def flushed3 : State := { packed3 with nb := 0, plen := 2, phase := phaseCode .emit }

/-- X1's container. -/
def container3 : List Byte :=
  [3, 0, 0, 0, 0, 0, 0, 0] ++ [0x41, 3, 0, 0, 0, 0, 0, 0, 0] ++ [0x42, 2, 0, 0, 0, 0, 0, 0, 0] ++
  [0x43, 1, 0, 0, 0, 0, 0, 0, 0] ++ [9, 0, 0, 0, 0, 0, 0, 0] ++ [0x1F, 0]

/-- DECOMPRESS accepted, before DHDR. -/
def boxed (bs : List Byte) : State := { source bs with mode := .decompress, phase := phaseCode .dhdr }

/-- Before DRECS. -/
def headed (bs : List Byte) (n : BitVec 9) : State := { boxed bs with nchar := n, phase := phaseCode .drecs }

/-- Before DBITS, with X1's tree. -/
def treed (bs : List Byte) : State :=
  { boxed bs with
    ft := counted.ft, node := tree3.node, nnode := 5, nact := 1, root := 4, rootValid := true, nchar := 3
    phase := phaseCode .dbits }

/-- Before DECODE, with X1's tree. -/
def decoding : State := { treed container3 with bitcnt := 9, paylen := 2, poff := 43, phase := phaseCode .decode }

/-- A tree that is one leaf, of weight 8. -/
def lone : State :=
  { State.reset with
    node := State.reset.node.set 0 (leafNode 0x5A 8), nnode := 1, nact := 1, active := State.reset.active.set 0 true
    ft := State.reset.ft.set 0x5A 8, nchar := 1, root := 0, rootValid := true }

/-! ## Single steps against the vectors -/

/-- R233, R234. -/
theorem test_compress_starts : (after (exec .compress abc)).phase = 1 := by decide +kernel

theorem test_decompress_starts :
    (after (exec .decompress abc)).phase = 8 ∧ (after (exec .decompress abc)).mode = .decompress := by decide +kernel

/-- 46_commands_fsm.md R231: a command is ignored while BUSY. -/
theorem test_compress_ignored_when_busy : (after (exec .compress (boxed []))).phase = 8 := by decide +kernel

/-- X1, HIST. -/
theorem test_hist :
    ftGet (after (exec .hist abc)) 0x41 = 3 ∧ ftGet (after (exec .hist abc)) 0x43 = 1 ∧
    ftGet (after (exec .hist abc)) 0x44 = 0 := by decide +kernel

/-- VA5: SRC_OK drops before the read of offset 1. -/
theorem test_hist_aborts :
    (after (exec .hist { abc with srcOkNext := [true, false] })).err = 1 ∧
    (after (exec .hist { abc with srcOkNext := [true, false] })).subErr = 0 := by decide +kernel

/-- X1, LEAVES. -/
theorem test_leaves : (fun t => (t.nchar, entry t 1)) (after (exec .leaves counted)) = (3, leafNode 0x42 2) := by
  decide +kernel

/-- X1, MERGE. -/
theorem test_merge :
    (fun t => (t.root, t.rootValid, entry t 3, entry t 4)) (after (exec .merge leaves3)) =
      (4, true, { leaf := false, sym := 0, wt := 3, zero := 2, one := 1 },
        { leaf := false, sym := 0, wt := 6, zero := 0, one := 3 }) := by decide +kernel

/-- X1, CODES. -/
theorem test_codes :
    (fun t => [0x41, 0x42, 0x43].map fun b => codeString (ctGet t b)) (after (exec .codes tree3)) =
      [[false], [true, true], [true, false]] := by decide +kernel

/-- X4: a lone leaf has the code "0". -/
theorem test_codes_lone : ctGet (after (exec .codes lone)) 0x5A = { valid := true, len := 1, bits := 0 } := by decide +kernel

/-- X1, PACK. -/
theorem test_pack :
    (fun t => (t.bitcnt, t.nb, t.acc, t.plen, t.pbuf)) (after (exec .pack coded3)) = (9, 1, 0, 1, [(0, 0x1F)]) := by
  decide +kernel

/-- X1, FLUSH. -/
theorem test_flush :
    (fun t => (t.plen, t.nb, t.bitcnt, readByte t.pbuf 0, readByte t.pbuf 1)) (after (exec .flush packed3)) =
      (2, 0, 9, 0x1F, 0) := by decide +kernel

/-- X1, EMIT. -/
theorem test_emit :
    (fun t => (t.snk, t.countIn, t.countOut, t.phase)) (after (exec .emit flushed3)) = (container3, 6, 45, 12) := by
  decide +kernel

/-- X3: an empty source. -/
theorem test_emit_empty :
    (fun t => (t.snk, t.countIn, t.countOut)) (after (exec .emit State.reset)) = ([0, 0, 0, 0, 0, 0, 0, 0], 0, 8) := by
  decide +kernel

/-- X1, DHDR. -/
theorem test_dhdr : (fun t => (t.nchar, t.phase)) (after (exec .dhdr (boxed container3))) = (3, 9) := by decide +kernel

/-- X3, DHDR with no symbol. -/
theorem test_dhdr_empty :
    (fun t => (t.countIn, t.countOut, t.phase)) (after (exec .dhdr (boxed [0, 0, 0, 0, 0, 0, 0, 0]))) = (8, 0, 12) := by
  decide +kernel

/-- X1, DRECS. -/
theorem test_drecs :
    (fun t => (ftGet t 0x42, t.reci, t.prev, t.phase)) (after (exec .drecs (headed container3 3))) = (2, 3, 0x44, 2) := by
  decide +kernel

/-- X1, DBITS. -/
theorem test_dbits :
    (fun t => (t.bitcnt, t.paylen, t.poff, t.phase)) (after (exec .dbits (treed container3))) = (9, 2, 43, 11) := by
  decide +kernel

/-- X7: X1's container cut by one byte. -/
theorem test_dbits_truncated :
    (fun t => (t.err, t.subErr, t.phase)) (after (exec .dbits (treed (container3.take 44)))) = (2, 6, 13) := by
  decide +kernel

/-- X1, DECODE. -/
theorem test_decode_x1 :
    (fun t => (t.snk, t.countIn, t.countOut)) (after (exec .decode decoding)) =
      ([0x41, 0x41, 0x41, 0x42, 0x42, 0x43], 45, 6) := by decide +kernel

/-- VD8a: a lone leaf reads no payload bit. -/
theorem test_decode_lone :
    (fun t => (t.snk, t.countIn)) (after (exec .decode { lone with bitcnt := 5 })) = ([0x5A, 0x5A, 0x5A, 0x5A, 0x5A], 26) := by
  decide +kernel

/-- R21: a write to SRC_LEN takes its low 64 bits. -/
theorem test_srcLen_write :
    (after (step { State.reset with host := [.regWrite 4 (2 ^ 64 + 5)] })).srcLen = 5 := by decide +kernel

/-- A placed table word is the next operation to run (log 9). -/
theorem test_placed_word : (after (step (State.reset.withFetchWord 4 7))).phase = 12 := by decide +kernel

/-! ## Witnesses: commands and the histogram -/

theorem witness_CmdWriteAcceptedOrIgnored :
    (∃ s : State, s.host = [.regWrite 0 5] ∧ busy s = true) ∧ ∃ s : State, s.host = [.regWrite 0 (2 ^ 64 + 3)] ∧ busy s = false :=
  ⟨⟨{ counted with host := [.regWrite 0 5] }, by decide +kernel⟩,
    ⟨{ State.reset with host := [.regWrite 0 (2 ^ 64 + 3)] }, by decide +kernel⟩⟩

/-- The source is as long as SRC_CAP. -/
theorem witness_CommandsStart :
    ∃ s : State, busy s = false ∧ srcSample s 0 = true ∧ s.srcLen.toNat ≤ s.cfg.srcCap.toNat ∧ s.srcLen = 2 ^ 56 - 1 :=
  ⟨{ State.reset with srcLen := 2 ^ 56 - 1 }, by decide +kernel⟩

/-- The source is one byte longer than SRC_CAP, or SRC_OK is 0, or both. -/
theorem witness_StartFailures :
    (∃ s : State, busy s = false ∧ srcSample s 0 = true ∧ s.srcLen.toNat = s.cfg.srcCap.toNat + 1) ∧
    (∃ s : State, busy s = false ∧ srcSample s 0 = false ∧ s.srcLen.toNat ≤ s.cfg.srcCap.toNat) ∧
    ∃ s : State, busy s = false ∧ srcSample s 0 = false ∧ s.cfg.srcCap.toNat < s.srcLen.toNat :=
  ⟨⟨{ State.reset with srcLen := 2 ^ 56 }, by decide +kernel⟩, ⟨{ abc with srcOk := false }, by decide +kernel⟩,
    ⟨{ State.reset with srcLen := 2 ^ 56, srcOkNext := [false] }, by decide +kernel⟩⟩

theorem witness_HistCounts : srcReady abc abc.srcLen.toNat ∧ srcReady State.reset State.reset.srcLen.toNat := by decide +kernel

theorem witness_HistSumIsLength : srcReady abc abc.srcLen.toNat := by decide +kernel

/-- At the first read and at the last. -/
theorem witness_HistStopsAtBadSample :
    (∃ s : State, 0 < s.srcLen.toNat ∧ srcReady s 0 ∧ srcSample s 0 = false) ∧
    ∃ s : State, s.srcLen.toNat = 6 ∧ srcReady s 5 ∧ srcSample s 5 = false :=
  ⟨⟨{ abc with srcOk := false }, by decide +kernel⟩,
    ⟨{ abc with srcOkNext := [true, true, true, true, true, false] }, by decide +kernel⟩⟩

/-! ## Witnesses: the tree -/

theorem witness_LeavesBuildsRow : presentBytes counted = [0x41, 0x42, 0x43] ∧ presentBytes abc = [] := by decide +kernel

theorem witness_RemoveMinTakesLeast : ∃ i, activeAt leaves3 i = true := ⟨2, by decide +kernel⟩

/-- Entries 0 and 3 of X1's arena have the same weight. -/
theorem witness_PriorityIsStrictTotalOrder :
    precedes tree3 0 3 = true ∧ precedes tree3 3 0 = false ∧ precedes tree3 2 1 = true := by decide +kernel

theorem reset_ready : leavesReady State.reset 0 := by
  refine ⟨by decide, by decide, by decide, fun k hk => ?_, by decide +kernel⟩
  simp [activeAt, State.reset, State.resetWith, hk]

theorem lone_ready : leavesReady lone 1 := by
  refine ⟨by decide, by decide, by decide, fun k hk => ?_, by decide +kernel⟩
  simp only [activeAt, lone, State.reset, State.resetWith, Vector.getElem?_set, Vector.getElem?_replicate, hk]
  by_cases h0 : k = 0 <;> simp [h0, eq_comm]

theorem leaves3_ready : leavesReady leaves3 3 := by
  refine ⟨by decide, by decide, by decide, fun k hk => ?_, by decide +kernel⟩
  simp only [activeAt, leaves3, State.reset, State.resetWith, Vector.getElem?_set, Vector.getElem?_replicate, hk]
  by_cases h0 : k = 0
  · simp [h0]
  · by_cases h1 : k = 1
    · simp [h1]
    · by_cases h2 : k = 2
      · simp [h2]
      · have : ¬ k < 3 := by omega
        simp [this, Ne.symm h0, Ne.symm h1, Ne.symm h2]

theorem witness_MergeBuildsTree : leavesReady State.reset 0 ∧ leavesReady lone 1 ∧ leavesReady leaves3 3 :=
  ⟨reset_ready, lone_ready, leaves3_ready⟩

theorem witness_TreeIsFunctionOfCounts :
    ∃ s s' t t' u u' : State, s.ft = s'.ft ∧ exec .leaves s = .next t ∧ exec .merge t = .next u ∧
      exec .leaves s' = .next t' ∧ exec .merge t' = .next u' ∧ s.mode ≠ s'.mode :=
  ⟨lone, { lone with mode := .decompress, nnode := 7 }, after _, after _, after _, after _, by decide +kernel,
    next_after _ (by decide +kernel), next_after _ (by decide +kernel), next_after _ (by decide +kernel),
    next_after _ (by decide +kernel), by decide +kernel⟩

theorem witness_InternalWeightsRise :
    ∃ s t : State, leavesReady s 3 ∧ exec .merge s = .next t :=
  ⟨leaves3, after _, leaves3_ready, next_after _ (by decide +kernel)⟩

/-! ## Witnesses: the codes -/

theorem witness_CodesLoneLeaf : isLeaf lone lone.root = true := by decide +kernel

theorem tree3_shape : treeShape tree3 3 := by decide +kernel

theorem tree3_cover : leavesCover tree3 3 := by decide +kernel

theorem lone_shape : treeShape lone 1 := by decide +kernel

/-- A tree of three leaves, with the path of each leaf. -/
theorem witness_CodesArePaths :
    treeShape tree3 3 ∧ [([false], 0), ([true, true], 1), ([true, false], 2)].all
      (fun q => follow tree3 tree3.root q.1 == some q.2 && isLeaf tree3 q.2) = true := ⟨tree3_shape, by decide +kernel⟩

theorem witness_CodesArePrefixFree :
    ∃ t, treeShape tree3 3 ∧ exec .codes tree3 = .next t ∧ hasCode t 0x41 = true ∧ hasCode t 0x43 = true :=
  ⟨after _, tree3_shape, next_after _ (by decide +kernel), by decide +kernel⟩

theorem witness_ValidCodesArePresentBytes :
    (∃ t, treeShape tree3 3 ∧ leavesCover tree3 3 ∧ exec .codes tree3 = .next t) ∧
    ∃ t, treeShape lone 1 ∧ leavesCover lone 1 ∧ exec .codes lone = .next t :=
  ⟨⟨after _, tree3_shape, tree3_cover, next_after _ (by decide +kernel)⟩,
    ⟨after _, lone_shape, by decide +kernel, next_after _ (by decide +kernel)⟩⟩

/-! ## Witnesses: the packer -/

theorem witness_BpInitAndPutBit : ∃ s t : State, s.nb ≠ 7 ∧ t.nb = 7 :=
  ⟨packed3, { packed3 with nb := 7 }, by decide +kernel⟩

theorem witness_PutBitsKeepsOrder : packed3.plen.toNat + [true, false, true].length < 2 ^ 64 := by decide +kernel

theorem witness_PackAppendsCodes :
    srcReady coded3 coded3.srcLen.toNat ∧ coded3.srcLen.toNat ≤ coded3.cfg.srcCap.toNat ∧
    ∀ b ∈ sourceBytes coded3, hasCode coded3 b = true := by decide +kernel

/-- The first byte has no code, the last byte has none; SRC_OK is 0 at the first read and at the last. -/
theorem witness_PackStopsWithoutCode :
    (∃ s : State, 0 < s.srcLen.toNat ∧ srcReady s 0 ∧ srcSample s 0 = true ∧ hasCode s (readByte s.src 0) = false) ∧
    (∃ s : State, s.srcLen.toNat = 6 ∧ srcReady s 5 ∧ (∀ j < 5, hasCode s (readByte s.src j) = true) ∧
      srcSample s 5 = true ∧ hasCode s (readByte s.src 5) = false) ∧
    (∃ s : State, 0 < s.srcLen.toNat ∧ srcReady s 0 ∧ srcSample s 0 = false ∧ s.srcLen.toNat ≤ s.cfg.srcCap.toNat) ∧
    ∃ s : State, s.srcLen.toNat = 6 ∧ srcReady s 5 ∧ (∀ j < 5, hasCode s (readByte s.src j) = true) ∧
      srcSample s 5 = false ∧ s.srcLen.toNat ≤ s.cfg.srcCap.toNat :=
  ⟨⟨abc, by decide +kernel⟩,
    ⟨{ coded3 with ct := coded3.ct.set 0x43 { valid := false, len := 2, bits := 0 } }, by decide +kernel⟩,
    ⟨{ coded3 with srcOk := false }, by decide +kernel⟩,
    ⟨{ coded3 with srcOkNext := List.replicate 5 true, srcOk := false }, by decide +kernel⟩⟩

theorem witness_FlushPads : packed3.plen.toNat + 1 < 2 ^ 64 := by decide +kernel

theorem witness_PackBufferFits :
    ∃ s t u : State, s.srcLen.toNat ≤ s.cfg.srcCap.toNat ∧ exec .pack s = .next t ∧ t.phase = phaseCode .flush ∧
      exec .flush t = .next u :=
  ⟨coded3, after _, after _, by decide +kernel, next_after _ (by decide +kernel), by decide +kernel,
    next_after _ (by decide +kernel)⟩

/-! ## Witnesses: the writing of the container -/

theorem witness_EmitWritesContainer :
    State.reset.nchar = 0 ∧ snkReady State.reset (emitImage State.reset).length ∧
    snkReady flushed3 (emitImage flushed3).length := by
  refine ⟨?_, ?_, ?_⟩ <;> decide +kernel

/-- With a payload whose last byte is not full, and with a spurious pad byte (R213). -/
theorem witness_EmitLength :
    (∃ s : State, s.nchar.toNat = (presentBytes s).length ∧ s.plen.toNat = s.bitcnt.toNat / 8 + 1 ∧ s.bitcnt = 9) ∧
    ∃ s : State, s.nchar.toNat = (presentBytes s).length ∧ s.plen.toNat = s.bitcnt.toNat / 8 + 1 ∧
      s.nchar ≠ 0 ∧ s.bitcnt = 8 ∧ s.cfg.emitPadByte = true :=
  ⟨⟨flushed3, by decide +kernel⟩, ⟨{ flushed3 with bitcnt := 8 }, by decide +kernel⟩⟩

/-- At the first byte and at the last. -/
theorem witness_EmitStopsAtBadSample :
    (∃ s : State, 0 < (emitImage s).length ∧ snkReady s 0 ∧ snkSample s 0 = false ∧
      s.outcnt.toNat + (emitImage s).length < 2 ^ 64) ∧
    ∃ s : State, (emitImage s).length = 45 ∧ snkReady s 44 ∧ snkSample s 44 = false ∧
      s.outcnt.toNat + (emitImage s).length < 2 ^ 64 :=
  ⟨⟨{ flushed3 with snkOk := false }, by decide +kernel⟩,
    ⟨{ flushed3 with snkOkNext := List.replicate 44 true, snkOk := false }, by decide +kernel⟩⟩

/-! ## Witnesses: the memory primitives and the reading of the container -/

/-- The read ends at the last byte of the source, or one byte past it. -/
theorem witness_MemReadCases :
    srcSample { abc with srcOk := false } 0 = false ∧ (srcSample abc 0 = true ∧ abc.srcLen.toNat < 0 + 7) ∧
    srcSample abc 0 = true ∧ 0 + 6 ≤ abc.srcLen.toNat := by decide +kernel

theorem witness_MemWriteCases :
    snkReady abc 8 ∧ (snkReady { abc with snkOk := false } 0 ∧ snkSample { abc with snkOk := false } 0 = false) ∧
    ∃ s : State, snkReady s 7 ∧ snkSample s 7 = false :=
  ⟨by decide +kernel, by decide +kernel, { abc with snkOkNext := List.replicate 7 true, snkOk := false }, by decide +kernel⟩

/-- Seven bytes; a count of 0, of 257, of 1 and of 256. -/
theorem witness_DhdrCases :
    srcSample { abc with srcOk := false } 0 = false ∧
    (srcSample (boxed [1, 0, 0, 0, 0, 0, 0]) 0 = true ∧ (boxed [1, 0, 0, 0, 0, 0, 0]).srcLen.toNat = 7) ∧
    [([0, 0, 0, 0, 0, 0, 0, 0], 0), ([1, 1, 0, 0, 0, 0, 0, 0], 257), ([1, 0, 0, 0, 0, 0, 0, 0], 1), ([0, 1, 0, 0, 0, 0, 0, 0], 256)].all
      (fun q => srcSample (boxed q.1) 0 && decide (8 ≤ (boxed q.1).srcLen.toNat) &&
        decide (leNat (readBytes (boxed q.1).src 0 8) = q.2)) = true := by
  refine ⟨?_, ?_, ?_⟩ <;> decide +kernel

theorem witness_DrecsLoads :
    srcReady (headed container3 3) (2 * 3) ∧ 8 + 9 * 3 ≤ (headed container3 3).srcLen.toNat ∧
    ∀ i < 3, recGood (headed container3 3) i := by decide +kernel

/-- The last record is cut by one byte; the first is cut at its first byte, with no sample after it; the second repeats the byte value of the first; the first has frequency 0. -/
theorem witness_DrecsRejects :
    (∃ s : State, s.nchar = 3 ∧ srcReady s (2 * 2) ∧ 8 + 9 * 2 ≤ s.srcLen.toNat ∧ (∀ j < 2, recGood s j) ∧
      srcSample s 4 = true ∧ srcSample s 5 = true ∧ s.srcLen.toNat + 1 = 8 + 9 * 2 + 9) ∧
    (∃ s : State, s.nchar = 3 ∧ srcReady s 0 ∧ srcSample s 0 = true ∧ srcSample s 1 = false ∧ s.srcLen.toNat = 8) ∧
    (∃ s : State, s.nchar = 3 ∧ srcReady s (2 * 1) ∧ 8 + 9 * 1 ≤ s.srcLen.toNat ∧ (∀ j < 1, recGood s j) ∧
      srcSample s 2 = true ∧ srcSample s 3 = true ∧ 8 + 9 * 1 + 9 ≤ s.srcLen.toNat ∧ ¬ recGood s 1 ∧ recFreq s 1 ≠ 0) ∧
    ∃ s : State, s.nchar = 3 ∧ srcReady s 0 ∧ srcSample s 0 = true ∧ srcSample s 1 = true ∧ 8 + 9 ≤ s.srcLen.toNat ∧
      ¬ recGood s 0 :=
  ⟨⟨headed (container3.take 34) 3, by decide +kernel⟩,
    ⟨{ headed (container3.take 8) 3 with srcOkNext := [true], srcOk := false }, by decide +kernel⟩,
    ⟨headed (container3.set 17 0x41) 3, by decide +kernel⟩, ⟨headed (container3.set 9 0) 3, by decide +kernel⟩⟩

/-- SRC_OK is 0 at the first read of a record and at the second, in the first record and in the last. -/
theorem witness_DrecsRejects_source :
    (∃ s : State, s.nchar = 3 ∧ srcReady s (2 * 0) ∧ srcSample s (2 * 0) = false) ∧
    ∃ s : State, s.nchar = 3 ∧ srcReady s (2 * 2) ∧ 8 + 9 * 2 ≤ s.srcLen.toNat ∧ (∀ j < 2, recGood s j) ∧
      8 + 9 * 2 + 1 ≤ s.srcLen.toNat ∧ srcSample s (2 * 2 + 1) = false :=
  ⟨⟨{ headed container3 3 with srcOk := false }, by decide +kernel⟩,
    ⟨{ headed container3 3 with srcOkNext := List.replicate 5 true, srcOk := false }, by decide +kernel⟩⟩

/-- The field `bitCount` is cut by one byte; the payload is cut by one byte; nothing is cut. -/
theorem witness_DbitsCases :
    srcSample { treed container3 with srcOk := false } 0 = false ∧
    (srcSample (treed (container3.take 42)) 0 = true ∧
      (treed (container3.take 42)).srcLen.toNat + 1 = 16 + 9 * (treed (container3.take 42)).nchar.toNat) ∧
    (srcSample (treed (container3.take 44)) 0 = true ∧
      (treed (container3.take 44)).srcLen.toNat + 1 =
        16 + 9 * 3 + ceil8 (leNat (readBytes (treed (container3.take 44)).src (8 + 9 * 3) 8))) ∧
    srcSample (treed container3) 0 = true ∧
      (treed container3).srcLen.toNat = 16 + 9 * 3 + ceil8 (leNat (readBytes (treed container3).src (8 + 9 * 3) 8)) := by
  refine ⟨?_, ?_, ?_, ?_⟩ <;> decide +kernel

/-! ## Witnesses: the bit reader and the decoder -/

/-- The cursor is on the last bit of the payload, or one past it. -/
theorem witness_GetBitCases :
    (∃ s : State, 8 * s.paylen.toNat = s.cur.toNat ∧ s.cur = 16) ∧
    (∃ s : State, s.cur.toNat < 8 * s.paylen.toNat ∧ srcSample s 0 = false) ∧
    ∃ s : State, s.cur.toNat + 1 = 8 * s.paylen.toNat ∧ srcSample s 0 = true ∧ s.poff.toNat + s.cur.toNat / 8 < s.srcLen.toNat :=
  ⟨⟨{ decoding with cur := 16 }, by decide +kernel⟩, ⟨{ decoding with srcOk := false }, by decide +kernel⟩,
    ⟨{ decoding with cur := 15 }, by decide +kernel⟩⟩

theorem witness_DecodeLoneLeaf :
    ∃ s : State, isLeaf s s.root = true ∧ snkReady s s.bitcnt.toNat ∧ s.bitcnt = 8 :=
  ⟨{ lone with bitcnt := 8 }, by decide +kernel⟩

/-- The symbols of X1's payload. -/
def symbols3 : List (List Bool × NodeIdx) :=
  [([false], 0), ([false], 0), ([false], 0), ([true, true], 1), ([true, true], 1), ([true, false], 2)]

theorem witness_DecodeSymbols :
    isLeaf decoding decoding.root = false ∧ symbolsOk decoding symbols3 ∧
    (∀ k < symbols3.length, (symbolBits (symbols3.take k)).length < decoding.bitcnt.toNat) ∧
    decoding.bitcnt.toNat ≤ (symbolBits symbols3).length ∧ payloadBegins decoding (symbolBits symbols3) ∧
    srcReady decoding (symbolBits symbols3).length ∧ snkReady decoding symbols3.length := by
  refine ⟨?_, ?_, ?_, ?_, ?_, ?_, ?_⟩ <;> decide +kernel

/-- What DecodePastPayload asks of a state about the symbols before the last one. -/
abbrev firstFive (s : State) : Prop :=
  isLeaf s s.root = false ∧ symbolsOk s (symbols3.take 5) ∧ (symbolBits (symbols3.take 5)).length < s.bitcnt.toNat ∧
  snkReady s 5 ∧ s.outcnt.toNat + 5 < 2 ^ 64

/-- The payload is one byte: the last symbol has its first bit in it. -/
theorem witness_DecodePastPayload :
    ∃ s : State, firstFive s ∧ follow s s.root [true] = some 3 ∧ isLeaf s 3 = false ∧
      payloadBegins s (symbolBits (symbols3.take 5) ++ [true]) ∧
      srcReady s (symbolBits (symbols3.take 5) ++ [true]).length ∧
      (symbolBits (symbols3.take 5) ++ [true]).length = 8 * s.paylen.toNat :=
  ⟨{ decoding with paylen := 1 }, by decide +kernel, by decide +kernel, by decide +kernel, by decide +kernel,
    by decide +kernel, by decide +kernel⟩

/-- SRC_OK is 0 at the second bit of the last symbol; at the first bit of the payload. -/
theorem witness_DecodePastPayload_source :
    (∃ s : State, firstFive s ∧ follow s s.root [true] = some 3 ∧ isLeaf s 3 = false ∧
      payloadBegins s (symbolBits (symbols3.take 5) ++ [true]) ∧
      srcReady s (symbolBits (symbols3.take 5) ++ [true]).length ∧
      (symbolBits (symbols3.take 5) ++ [true]).length < 8 * s.paylen.toNat ∧
      srcSample s (symbolBits (symbols3.take 5) ++ [true]).length = false) ∧
    ∃ s : State, isLeaf s s.root = false ∧ symbolsOk s [] ∧ (symbolBits []).length < s.bitcnt.toNat ∧ snkReady s 0 ∧
      follow s s.root [] = some s.root ∧ payloadBegins s (symbolBits [] ++ []) ∧ 0 < 8 * s.paylen.toNat ∧ srcSample s 0 = false :=
  ⟨⟨{ decoding with srcOkNext := List.replicate 8 true, srcOk := false }, by decide +kernel, by decide +kernel, by decide +kernel,
      by decide +kernel, by decide +kernel, by decide +kernel, by decide +kernel⟩,
    ⟨{ decoding with srcOk := false }, by decide +kernel, by decide +kernel, by decide +kernel, by decide +kernel,
      by decide +kernel, by decide +kernel, by decide +kernel, by decide +kernel⟩⟩

/-- SNK_OK is 0 at the append of the last symbol; at the last append of a lone leaf. -/
theorem witness_DecodePastPayload_sink :
    (∃ s : State, firstFive s ∧ symbolsOk s [([true, false], 2)] ∧
      payloadBegins s (symbolBits (symbols3.take 5) ++ [true, false]) ∧
      srcReady s (symbolBits (symbols3.take 5) ++ [true, false]).length ∧ snkSample s 5 = false) ∧
    ∃ s : State, isLeaf s s.root = true ∧ s.bitcnt = 8 ∧ snkReady s 7 ∧ snkSample s 7 = false ∧ s.outcnt.toNat + 7 < 2 ^ 64 :=
  ⟨⟨{ decoding with snkOkNext := List.replicate 5 true, snkOk := false }, by decide +kernel, by decide +kernel, by decide +kernel,
      by decide +kernel, by decide +kernel⟩,
    ⟨{ lone with bitcnt := 8, snkOkNext := List.replicate 7 true, snkOk := false }, by decide +kernel⟩⟩

theorem witness_DecodeEnds : 8 * decoding.paylen.toNat < 2 ^ 64 := by decide +kernel

/-! ## Witnesses: reset, registers, the source window and the step -/

theorem witness_ResetEffect :
    (∃ s : State, s.host = [.rst] ∧ busy s = false) ∧ ∃ s : State, s.host = [.rst] ∧ busy s = true :=
  ⟨⟨{ abc with host := [.rst] }, by decide +kernel⟩, ⟨{ counted with host := [.rst] }, by decide +kernel⟩⟩

theorem witness_RegisterFile :
    (∃ s : State, s.host = [.regRead 1]) ∧ (∃ s : State, s.host = [.regWrite 4 (2 ^ 64 + 5)] ∧ busy s = false) ∧
    (∃ s : State, s.host = [.regWrite 4 5] ∧ busy s = true) ∧ ∃ s : State, s.host = [.regWrite 7 5] :=
  ⟨⟨{ abc with host := [.regRead 1] }, rfl⟩, ⟨{ abc with host := [.regWrite 4 (2 ^ 64 + 5)] }, by decide +kernel⟩,
    ⟨{ counted with host := [.regWrite 4 5] }, by decide +kernel⟩, ⟨{ abc with host := [.regWrite 7 5] }, rfl⟩⟩

/-- The last byte below SRC_LEN and the first byte beyond it, while BUSY; the last byte of the window. -/
theorem witness_SourcePlacement :
    (∃ s : State, s.host = [.placeSource 5 [7]] ∧ 5 + 1 ≤ 2 ^ 64 ∧ busy s = true ∧ 5 < s.srcLen.toNat) ∧
    (∃ s : State, s.host = [.placeSource 6 [7]] ∧ 6 + 1 ≤ 2 ^ 64 ∧ busy s = true ∧ s.srcLen.toNat ≤ 6) ∧
    ∃ s : State, s.host = [.placeSource (2 ^ 64 - 1) [7]] ∧ 2 ^ 64 - 1 + 1 ≤ 2 ^ 64 ∧ busy s = false :=
  ⟨⟨{ counted with host := [.placeSource 5 [7]] }, by decide +kernel⟩,
    ⟨{ counted with host := [.placeSource 6 [7]] }, by decide +kernel⟩,
    ⟨{ abc with host := [.placeSource (2 ^ 64 - 1) [7]] }, by decide +kernel⟩⟩

/-- The moves that drive the inputs and drain the sink, made while BUSY; the drain asks for more bytes than there are. -/
theorem witness_SourcePlacement_inputs :
    (∃ s : State, s.host = [.driveSrcOk [false] true] ∧ busy s = true) ∧
    (∃ s : State, s.host = [.driveSnkOk [] false] ∧ busy s = true) ∧
    ∃ s : State, s.host = [.drainSink 2] ∧ busy s = true ∧ s.snk = [7] :=
  ⟨⟨{ counted with host := [.driveSrcOk [false] true] }, by decide +kernel⟩,
    ⟨{ counted with host := [.driveSnkOk [] false] }, by decide +kernel⟩,
    ⟨{ counted with host := [.drainSink 2], snk := [7] }, by decide +kernel⟩⟩

theorem witness_StepRunsDecoded :
    (∃ s : State, s.host = [] ∧ decode .phase [BitVec.ofNat 8 s.phase.toNat] = .instr .codes []) ∧
    (∃ s : State, s.host = [.engine] ∧ decode .phase [BitVec.ofNat 8 s.phase.toNat] = .instr .idle []) ∧
    (∃ s : State, s.host = [.wait] ∧ busy s = true ∧ decode .phase [BitVec.ofNat 8 s.phase.toNat] = .instr .decode []) ∧
    (∃ s : State, s.host = [.wait] ∧ busy s = false) ∧
    ∃ s : State, s.host = [.regWrite 0 257] ∧ decode .cmd [BitVec.ofNat 8 257] = .instr .compress [] :=
  ⟨⟨tree3, by decide +kernel⟩, ⟨{ abc with host := [.engine] }, by decide +kernel⟩,
    ⟨{ decoding with host := [.wait] }, by decide +kernel⟩, ⟨{ abc with host := [.wait] }, by decide +kernel⟩,
    ⟨{ abc with host := [.regWrite 0 257] }, by decide +kernel⟩⟩

theorem witness_DecodeEncodeAgree :
    decode .cmd [0xFD#8, 9#8] = .instr .compress [9#8] ∧ decode .phase [0x0F#8] = .instr .phaseUnreachable15 [] := by decide

/-! ## Witnesses: frames and whole-machine rules -/

/-- A command that starts and one that aborts. -/
theorem witness_FrameCommands :
    (∃ t, exec .compress abc = .next t) ∧ ∃ t, exec .decompress { abc with srcOk := false } = .next t :=
  ⟨⟨after _, next_after _ (by decide +kernel)⟩, ⟨after _, next_after _ (by decide +kernel)⟩⟩

theorem witness_FrameSourceReaders :
    (∃ t, exec .hist abc = .next t) ∧ (∃ t, exec .dhdr (boxed container3) = .next t) ∧
    (∃ t, exec .drecs (headed container3 3) = .next t) ∧ ∃ t, exec .dbits (treed container3) = .next t :=
  ⟨⟨after _, next_after _ (by decide +kernel)⟩, ⟨after _, next_after _ (by decide +kernel)⟩,
    ⟨after _, next_after _ (by decide +kernel)⟩, ⟨after _, next_after _ (by decide +kernel)⟩⟩

theorem witness_FrameTreePhases :
    (∃ t, exec .leaves counted = .next t) ∧ (∃ t, exec .merge leaves3 = .next t) ∧ ∃ t, exec .codes tree3 = .next t :=
  ⟨⟨after _, next_after _ (by decide +kernel)⟩, ⟨after _, next_after _ (by decide +kernel)⟩,
    ⟨after _, next_after _ (by decide +kernel)⟩⟩

theorem witness_FramePack :
    ∃ t, coded3.srcLen.toNat ≤ coded3.cfg.srcCap.toNat ∧ exec .pack coded3 = .next t :=
  ⟨after _, by decide +kernel, next_after _ (by decide +kernel)⟩

theorem witness_FrameAppendingPhases :
    (∃ t, exec .emit flushed3 = .next t ∧ flushed3.outcnt.toNat + (emitImage flushed3).length < 2 ^ 64) ∧
    ∃ t, exec .decode decoding = .next t ∧ decoding.outcnt.toNat + decoding.bitcnt.toNat < 2 ^ 64 :=
  ⟨⟨after _, next_after _ (by decide +kernel), by decide +kernel⟩,
    ⟨after _, next_after _ (by decide +kernel), by decide +kernel⟩⟩

theorem witness_EngineLeavesHostStateAlone : ∃ t, exec .pack coded3 = .next t := ⟨after _, next_after _ (by decide +kernel)⟩

theorem witness_PhaseTable :
    (∃ t, exec .merge leaves3 = .next t) ∧ ∃ t, exec .compress counted = .next t :=
  ⟨⟨after _, next_after _ (by decide +kernel)⟩, ⟨after _, next_after _ (by decide +kernel)⟩⟩

theorem witness_StepKeepsMemoryForm :
    ∃ s t : State, memoryOk s ∧ s.src.length = 6 ∧ s.pbuf.length = 1 ∧ step s = .next t :=
  ⟨packed3, after _, by decide +kernel, by decide +kernel, by decide +kernel, next_after _ (by decide +kernel)⟩

theorem witness_StepKeepsControl : ∃ s t : State, controlOk s ∧ busy s = true ∧ step s = .next t :=
  ⟨packed3, after _, by decide +kernel, by decide +kernel, next_after _ (by decide +kernel)⟩

/-- Before MERGE, in COMPRESS. -/
theorem leaves3_ok : engineOk leaves3 := by
  refine ⟨by decide +kernel, by decide +kernel, by decide +kernel, fun _ => ⟨3, by decide, leaves3_ready, ?_, by decide +kernel, by decide +kernel⟩,
    fun h => absurd h (by decide +kernel), by decide +kernel, by decide +kernel, by decide +kernel, by decide +kernel, by decide +kernel⟩
  decide +kernel

/-- Before EMIT. -/
theorem flushed3_ok : engineOk flushed3 := by
  refine ⟨by decide +kernel, by decide +kernel, by decide +kernel, fun h => absurd h (by decide +kernel),
    fun h => absurd h (by decide +kernel), by decide +kernel, by decide +kernel, by decide +kernel, by decide +kernel, by decide +kernel⟩

/-- Before DECODE. -/
theorem decoding_ok : engineOk decoding := by
  refine ⟨by decide +kernel, by decide +kernel, by decide +kernel, fun h => absurd h (by decide +kernel),
    fun _ => ⟨3, by decide, ?_, ?_⟩, by decide +kernel, by decide +kernel, by decide +kernel, by decide +kernel, by decide +kernel⟩
  · decide +kernel
  · decide +kernel

theorem witness_OutputCountFits :
    (engineOk flushed3 ∧ flushed3.phase = phaseCode .emit) ∧ engineOk decoding ∧ decoding.phase = phaseCode .decode :=
  ⟨⟨flushed3_ok, by decide +kernel⟩, decoding_ok, by decide +kernel⟩

theorem witness_StepKeepsEngineInvariant :
    (∃ t, engineOk leaves3 ∧ step leaves3 = .next t) ∧ ∃ t, engineOk decoding ∧ step decoding = .next t :=
  ⟨⟨after _, leaves3_ok, next_after _ (by decide +kernel)⟩, ⟨after _, decoding_ok, next_after _ (by decide +kernel)⟩⟩

theorem witness_EngineNeverStops : engineOk leaves3 ∧ engineOk flushed3 ∧ engineOk decoding :=
  ⟨leaves3_ok, flushed3_ok, decoding_ok⟩

/-- The premises of both halves, for the source of one byte `Z`, whose container X4 gives. -/
theorem witness_RoundTrip :
    ∃ s u : State,
      (busy s = false ∧ s.host = [.regWrite 0 1] ∧ (∀ k, srcSample s k = true) ∧ (∀ k, snkSample s k = true) ∧
        s.srcLen.toNat ≤ s.cfg.srcCap.toNat ∧ sourceBytes s = [0x5A]) ∧
      busy u = false ∧ u.host = [.regWrite 0 2] ∧ (∀ k, srcSample u k = true) ∧ (∀ k, snkSample u k = true) ∧
        u.srcLen.toNat ≤ u.cfg.srcCap.toNat ∧
        sourceBytes u = [1, 0, 0, 0, 0, 0, 0, 0, 0x5A, 1, 0, 0, 0, 0, 0, 0, 0, 1, 0, 0, 0, 0, 0, 0, 0, 0] :=
  ⟨{ source [0x5A] with host := [.regWrite 0 1] },
    { source [1, 0, 0, 0, 0, 0, 0, 0, 0x5A, 1, 0, 0, 0, 0, 0, 0, 0, 1, 0, 0, 0, 0, 0, 0, 0, 0] with
      host := [.regWrite 0 2] },
    ⟨by decide +kernel, rfl, fun _ => rfl, fun _ => rfl, by decide +kernel, by decide +kernel⟩,
    by decide +kernel, rfl, fun _ => rfl, fun _ => rfl, by decide +kernel, by decide +kernel⟩

end Sys2Proof.Tests
end

namespace Sys2Proof.Proofs

open Sys2Proof.Machine Sys2Proof.Safety

/-! # What an operation can do

Every operation is a chain of pieces (`Res`) that ends by going on to the next phase, by finishing the command, or by an abort.
`Within i s u` says what holds of a state `u` in the middle of operation `i`, begun in `s`; `Ends` carries it along a chain; and
`Effect` is the inversion of `exec`: all that a next state of an operation can be. The whole-machine rules are read off it. -/

/-! ## What an operation leaves alone until it ends -/

/-- The fields that no operation writes before it ends: the host's (spec/10_state.md R26, R30, R45, spec/20_memory.md R61) and the control
registers, which change only when PHASE does (spec/46_commands_fsm.md R236). -/
structure Held where
  cfg : Config
  srcLen : Word64
  src : Memory
  srcOk : Bool
  snkOk : Bool
  host : List HostMove
  rdata : Word64
  phase : BitVec 4
  mode : Mode
  err : BitVec 2
  subErr : BitVec 4
  countIn : Word64
  countOut : Word64

/-- The held fields of a state. -/
def held (s : State) : Held :=
  { cfg := s.cfg, srcLen := s.srcLen, src := s.src, srcOk := s.srcOk, snkOk := s.snkOk, host := s.host, rdata := s.rdata,
    phase := s.phase, mode := s.mode, err := s.err, subErr := s.subErr, countIn := s.countIn, countOut := s.countOut }

/-- `u` is a state in the middle of operation `i`, which began in `s`: the held fields are as they were, PBUF is still in canonical
form if it was, and only EMIT and DECODE have appended (spec/20_memory.md R62). -/
structure Within (i : Instr) (s u : State) : Prop where
  held : held u = held s
  pbuf : Memory.wf s.pbuf → Memory.wf u.pbuf
  sink : i ≠ .emit → i ≠ .decode → u.snk = s.snk ∧ u.outcnt = s.outcnt

namespace Within

variable {i : Instr} {s u v : State}

theorem refl (i : Instr) (s : State) : Within i s s := ⟨rfl, id, fun _ _ => ⟨rfl, rfl⟩⟩

/-- An update of other fields stays within the operation. -/
theorem update (h : Within i s u)
    (hv : Proofs.held v = Proofs.held u ∧ v.pbuf = u.pbuf ∧ v.snk = u.snk ∧ v.outcnt = u.outcnt := by
      exact ⟨rfl, rfl, rfl, rfl⟩) : Within i s v := by
  obtain ⟨hheld, hpbuf, hsnk, hout⟩ := hv
  exact ⟨hheld.trans h.held, hpbuf ▸ h.pbuf, hsnk ▸ hout ▸ h.sink⟩

/-- A byte stored in PBUF. -/
theorem store (h : Within i s u) (a : Nat) (b : Byte) (hv : Proofs.held v = Proofs.held u ∧ v.pbuf = writeByte u.pbuf a b ∧
    v.snk = u.snk ∧ v.outcnt = u.outcnt) : Within i s v := by
  obtain ⟨hheld, hpbuf, hsnk, hout⟩ := hv
  exact ⟨hheld.trans h.held, fun hs => hpbuf ▸ writeByte_wf _ a b (h.pbuf hs), hsnk ▸ hout ▸ h.sink⟩

/-- EMIT and DECODE may change the sink and its count as well. -/
theorem append (h : Within i s u) (hi : i = .emit ∨ i = .decode) (hv : Proofs.held v = Proofs.held u ∧ v.pbuf = u.pbuf) :
    Within i s v := by
  obtain ⟨hheld, hpbuf⟩ := hv
  refine ⟨hheld.trans h.held, hpbuf ▸ h.pbuf, fun he hd => ?_⟩
  exact (hi.elim he hd).elim

theorem cfg (h : Within i s u) : u.cfg = s.cfg := congrArg Held.cfg h.held
theorem srcLen (h : Within i s u) : u.srcLen = s.srcLen := congrArg Held.srcLen h.held
theorem src (h : Within i s u) : u.src = s.src := congrArg Held.src h.held
theorem srcOk (h : Within i s u) : u.srcOk = s.srcOk := congrArg Held.srcOk h.held
theorem snkOk (h : Within i s u) : u.snkOk = s.snkOk := congrArg Held.snkOk h.held
theorem host (h : Within i s u) : u.host = s.host := congrArg Held.host h.held
theorem rdata (h : Within i s u) : u.rdata = s.rdata := congrArg Held.rdata h.held
theorem mode (h : Within i s u) : u.mode = s.mode := congrArg Held.mode h.held
theorem err (h : Within i s u) : u.err = s.err := congrArg Held.err h.held
theorem subErr (h : Within i s u) : u.subErr = s.subErr := congrArg Held.subErr h.held
theorem countIn (h : Within i s u) : u.countIn = s.countIn := congrArg Held.countIn h.held
theorem countOut (h : Within i s u) : u.countOut = s.countOut := congrArg Held.countOut h.held

end Within

/-! ## How an operation ends -/

/-- The pairs of error kind and sub-cause an operation can raise (spec/60_exceptions.md R253). -/
def abortCodes : Instr → List (ErrKind × SubCause)
  | .compress | .decompress => [(.sourceUnavailable, .none), (.sourceUnavailable, .tooLong)]
  | .hist | .pack => [(.sourceUnavailable, .none)]
  | .emit => [(.sinkError, .none)]
  | .dhdr => [(.sourceUnavailable, .none), (.formatError, .truncHeader), (.formatError, .badCount)]
  | .drecs => [(.sourceUnavailable, .none), (.formatError, .truncRecord), (.formatError, .badRecord)]
  | .dbits => [(.sourceUnavailable, .none), (.formatError, .truncBitcount), (.formatError, .truncPayload)]
  | .decode => [(.sourceUnavailable, .none), (.formatError, .truncPayload), (.formatError, .pastPayload), (.sinkError, .none)]
  | .nop | .cmdReserved3 | .idle | .leaves | .merge | .codes | .flush | .done | .error | .phaseUnreachable14
  | .phaseUnreachable15 => []

/-- Where an operation that does not end the command goes (spec/46_commands_fsm.md R236); `u` is the state it ends in. -/
def nextOp (u : State) : Instr → Option Instr
  | .hist => some .leaves
  | .leaves => some .merge
  | .merge => some (afterMerge u)
  | .codes => some .pack
  | .pack => some .flush
  | .flush => some .emit
  | .dhdr => some .drecs
  | .drecs => some .leaves
  | .dbits => some .decode
  | .nop | .compress | .decompress | .cmdReserved3 | .idle | .emit | .decode | .done | .error | .phaseUnreachable14
  | .phaseUnreachable15 => none

/-- The mode and the first phase of a command (spec/46_commands_fsm.md R233, R234). -/
def commandStart : Instr → Option (Mode × Instr)
  | .compress => some (.compress, .hist)
  | .decompress => some (.decompress, .dhdr)
  | _ => none

/-- Operation `i`, begun in `s`, was aborted, with a pair of its row of R253. -/
def Aborted (i : Instr) (s t : State) : Prop :=
  ∃ u e c, Within i s u ∧ (e, c) ∈ abortCodes i ∧ t = takeAbort e c u

/-- All that a next state of operation `i` at `s` can be. -/
inductive Effect (s : State) (i : Instr) : State → Prop
  /-- Nothing changes: the operation does nothing, or the command is ignored (spec/46_commands_fsm.md R231, R232, R235, R237 to R239). -/
  | keeps : Effect s i s
  /-- A command is accepted and starts (R233, R234). -/
  | starts {m j u} (hc : commandStart i = some (m, j)) (hbusy : busy s = false) (hcap : s.srcLen.toNat ≤ s.cfg.srcCap.toNat)
      (hu : Within i (accept m s) u) : Effect s i (toPhase j u)
  /-- A command is accepted and aborts at once (spec/60_exceptions.md R258 (a)). -/
  | rejects {m j t} (hc : commandStart i = some (m, j)) (ht : Aborted i (accept m s) t) : Effect s i t
  /-- A phase goes on to the next one. -/
  | goesOn {j u} (hu : Within i s u) (hj : nextOp u i = some j) : Effect s i (toPhase j u)
  /-- A phase ends the command. -/
  | finishes {u} (n : Nat) (hi : i ∈ [Instr.emit, .dhdr, .decode]) (hu : Within i s u) : Effect s i (enterDone n u)
  /-- A phase is aborted. -/
  | aborts {t} (hi : formatOf i = .phase) (ht : Aborted i s t) : Effect s i t

/-! ## Chains of pieces -/

/-- A piece of operation `i`, which began in `s`, ends in a state where `P` holds, or in an abort of `i`, or in a fault. -/
def Ends (i : Instr) (s : State) {α : Type} (P : State → Prop) : Res α → Prop
  | .ok _ u => P u
  | .abort t => Aborted i s t
  | .fault _ => True

section Chains

variable {i : Instr} {s u : State} {α β : Type} {P Q : State → Prop}

theorem Ends.bind {r : Res α} {k : α → State → Res β} (h : Ends i s P r) (hk : ∀ a v, P v → Ends i s Q (k a v)) :
    Ends i s Q (andThen r k) := by
  cases r with
  | ok a v => exact hk a v h
  | abort t => exact h
  | fault f => exact trivial

theorem ends_raise {e : ErrKind} {c : SubCause} (h : Within i s u) (hc : (e, c) ∈ abortCodes i) :
    Ends i s P (raise e c u : Res α) :=
  ⟨u, e, c, h, hc, rfl⟩

/-- A phase operation as a step. -/
theorem Ends.effect {r : Res Unit} {t : State} (h : Ends i s (Effect s i) r) (hi : formatOf i = .phase)
    (ht : finish r = .next t) : Effect s i t := by
  cases r with
  | ok a v => cases ht; exact h
  | abort v => cases ht; exact .aborts hi h
  | fault f => cases ht

/-- A chain that goes on to the next phase. -/
theorem Ends.thenPhase {r : Res α} {j : State → Instr} (h : Ends i s (Within i s) r) (hj : ∀ v, nextOp v i = some (j v)) :
    Ends i s (Effect s i) (andThen r fun _ v => .ok () (toPhase (j v) v)) :=
  h.bind fun _ v hv => Effect.goesOn hv (hj v)

end Chains

/-! ## Reads and appends -/

section Primitives

variable {i : Instr} {s u : State}

theorem memRead_ends (h : Within i s u) {a n : Nat} {c : SubCause} (hs : (.sourceUnavailable, .none) ∈ abortCodes i)
    (hc : (.formatError, c) ∈ abortCodes i) : Ends i s (Within i s) (memRead a n c u) := by
  have hu : Within i s { u with srcOkNext := u.srcOkNext.tail } := h.update
  rw [memRead_eq]
  split
  · exact ends_raise hu hs
  · split
    · exact ends_raise hu hc
    · exact hu

/-- A read of COMPRESS, below SRC_LEN. -/
theorem srcRead_ends (h : Within i s u) {a : Nat} (hs : (.sourceUnavailable, .none) ∈ abortCodes i) (ha : a < u.srcLen.toNat) :
    Ends i s (· = { u with srcOkNext := u.srcOkNext.tail }) (srcRead a u) := by
  rw [srcRead_eq, if_neg (show ¬ u.srcLen.toNat < a + 1 by omega)]
  split
  · exact ends_raise h.update hs
  · rfl

theorem sinkBytes_ends (h : Within i s u) (hi : i = .emit ∨ i = .decode) (bs : List Byte) :
    Ends i s (Within i s) (sinkBytes bs u) := by
  have hc : (.sinkError, .none) ∈ abortCodes i := by rcases hi with rfl | rfl <;> decide
  induction bs generalizing u with
  | nil => exact h
  | cons b bs ih =>
    rw [sinkBytes_cons]
    split
    · exact ends_raise h.update hc
    · exact ih (h.append hi ⟨rfl, rfl⟩)

end Primitives

/-! ## The histogram and the tree -/

section Tree

variable {s u : State}

/-- A cursor below a length goes up by one without wrapping. -/
theorem cursor_succ {x len : Word64} (h : x.toNat < len.toNat) : (x + 1).toNat = x.toNat + 1 := by
  have := len.isLt
  rw [BitVec.toNat_add]
  exact Nat.mod_eq_of_lt (by simp; omega)

theorem histLoop_ends (n : Nat) (h : Within .hist s u) (hn : u.idx.toNat + n ≤ u.srcLen.toNat) :
    Ends .hist s (Within .hist s) (histLoop n u) := by
  induction n generalizing u with
  | zero => exact h
  | succ n ih =>
    have hlt : u.idx.toNat < u.srcLen.toNat := by omega
    refine (srcRead_ends h (by decide) hlt).bind ?_
    rintro b _ rfl
    refine ih h.update ?_
    simp only [histCount_writes, histCount_keeps, cursor_succ hlt]
    omega

theorem leavesStep_within (h : Within .leaves s u) : Within .leaves s (leavesStep u) := by
  unfold leavesStep
  dsimp only
  split <;> exact h.update

theorem leavesLoop_within (n : Nat) (h : Within .leaves s u) : Within .leaves s (leavesLoop n u) := by
  induction n generalizing u with
  | zero => exact h
  | succ n ih => exact ih (leavesStep_within h)

theorem leavesCount_within (h : Within .leaves s u) : Within .leaves s (leavesCount u) := by
  unfold leavesCount
  split
  · exact h.update
  · exact h

theorem removeMin_ends (h : Within .merge s u) : Ends .merge s (Within .merge s) (removeMin u) := by
  unfold removeMin
  split
  · exact trivial
  · exact h.update

theorem mergeLoop_ends (n : Nat) (h : Within .merge s u) : Ends .merge s (Within .merge s) (mergeLoop n u) := by
  induction n generalizing u with
  | zero => exact h
  | succ n ih =>
    have step : Ends .merge s (Within .merge s) (mergeStep u) :=
      (removeMin_ends h).bind fun _ _ h1 => (removeMin_ends h1).bind fun _ _ h2 => h2.update
    exact step.bind fun _ _ h1 => ih h1

theorem chooseRoot_ends (h : Within .merge s u) : Ends .merge s (Within .merge s) (chooseRoot u) := by
  unfold chooseRoot
  split
  · split
    · exact trivial
    · exact h.update
  · exact h.update

/-! ## The codes and the packer -/

theorem pushStk_ends (e : StkEntry) (h : Within .codes s u) : Ends .codes s (Within .codes s) (pushStk e u) := by
  unfold pushStk
  split
  · exact h.update
  · exact trivial

theorem visit_ends (e : StkEntry) (h : Within .codes s u) : Ends .codes s (Within .codes s) (visit e u) := by
  unfold visit
  dsimp only
  split
  · exact h.update
  · exact (pushStk_ends _ h).bind fun _ _ h1 => pushStk_ends _ h1

theorem walkLoop_ends (n : Nat) (h : Within .codes s u) : Ends .codes s (Within .codes s) (walkLoop n u) := by
  induction n generalizing u with
  | zero =>
    unfold walkLoop
    split
    · exact h
    · exact trivial
  | succ n ih =>
    unfold walkLoop
    split
    · exact h
    · exact (visit_ends _ h.update).bind fun _ _ h1 => ih h1

theorem walkRoot_ends (h : Within .codes s u) : Ends .codes s (Within .codes s) (walkRoot u) := by
  unfold walkRoot
  dsimp only
  split
  · exact h.update
  · exact (pushStk_ends _ h.update).bind fun _ _ h1 => walkLoop_ends _ h1

theorem putBit_within {i : Instr} (b : Bool) (h : Within i s u) : Within i s (putBit b u) := by
  unfold putBit
  dsimp only
  split
  · exact h.store _ _ ⟨rfl, rfl, rfl, rfl⟩
  · exact h.update

theorem putBits_within {i : Instr} (bs : List Bool) (h : Within i s u) : Within i s (putBits bs u) := by
  induction bs generalizing u with
  | nil => exact h
  | cons b bs ih => exact ih (putBit_within b h)

@[simp] theorem putBit_idx (b : Bool) (s : State) : (putBit b s).idx = s.idx := by
  unfold putBit
  dsimp only
  split <;> rfl

@[simp] theorem putBits_idx (bs : List Bool) (s : State) : (putBits bs s).idx = s.idx := by
  induction bs generalizing s with
  | nil => rfl
  | cons b bs ih => rw [putBits, ih, putBit_idx]

theorem packByte_ends (b : Byte) (h : Within .pack s u) :
    Ends .pack s (fun v => Within .pack s v ∧ v.idx = u.idx + 1) (packByte b u) := by
  unfold packByte
  dsimp only
  split
  · refine ⟨(putBits_within _ h).update, ?_⟩
    simp [putCode]
  · exact trivial

theorem packLoop_ends (n : Nat) (h : Within .pack s u) (hn : u.idx.toNat + n ≤ s.srcLen.toNat) :
    Ends .pack s (Within .pack s) (packLoop n u) := by
  induction n generalizing u with
  | zero => exact h
  | succ n ih =>
    have hlt : u.idx.toNat < s.srcLen.toNat := by omega
    refine (srcRead_ends h (by decide) (h.srcLen ▸ hlt)).bind ?_
    rintro b _ rfl
    refine (packByte_ends b h.update).bind ?_
    rintro _ v ⟨hv, hidx⟩
    refine ih hv ?_
    rw [hidx, cursor_succ hlt]
    omega

theorem padLoop_within (n : Nat) (h : Within .flush s u) : Within .flush s (padLoop n u) := by
  induction n generalizing u with
  | zero => exact h
  | succ n ih =>
    unfold padLoop
    split
    · exact h
    · exact ih (putBit_within _ h)

end Tree

/-! ## The container and the decoder -/

section Container

variable {s u : State}

theorem emitRecords_ends (n : Nat) (h : Within .emit s u) : Ends .emit s (Within .emit s) (emitRecords n u) := by
  induction n generalizing u with
  | zero => exact h
  | succ n ih =>
    have record : Ends .emit s (Within .emit s) (emitRecord u) := by
      unfold emitRecord
      refine Ends.bind (P := Within .emit s) ?_ fun _ _ h1 => h1.update
      split
      · exact h
      · exact (sinkBytes_ends h (.inl rfl) _).bind fun _ _ h1 => sinkBytes_ends h1 (.inl rfl) _
    exact record.bind fun _ _ h1 => ih h1

theorem emitPayload_ends (n : Nat) (h : Within .emit s u) : Ends .emit s (Within .emit s) (emitPayload n u) := by
  induction n generalizing u with
  | zero => exact h
  | succ n ih => exact (sinkBytes_ends h (.inl rfl) _).bind fun _ _ h1 => ih h1.update

theorem readRecord_ends (h : Within .drecs s u) : Ends .drecs s (Within .drecs s) (readRecord u) := by
  refine (memRead_ends h (by decide) (by decide)).bind fun b u1 h1 =>
    (memRead_ends h1 (by decide) (by decide)).bind fun f u2 h2 => ?_
  split
  · exact ends_raise h2 (by decide)
  · exact h2.update

theorem readRecords_ends (n : Nat) (h : Within .drecs s u) : Ends .drecs s (Within .drecs s) (readRecords n u) := by
  induction n generalizing u with
  | zero => exact h
  | succ n ih => exact (readRecord_ends h).bind fun _ _ h1 => ih h1

theorem getBit_ends (h : Within .decode s u) : Ends .decode s (Within .decode s) (getBit u) := by
  unfold getBit
  split
  · exact ends_raise h (by decide)
  · exact (memRead_ends h (by decide) (by decide)).bind fun _ _ h1 => h1.update

theorem descend_ends (n : Nat) (h : Within .decode s u) : Ends .decode s (Within .decode s) (descend n u) := by
  induction n generalizing u with
  | zero =>
    unfold descend
    split
    · exact h
    · exact trivial
  | succ n ih =>
    unfold descend
    split
    · exact h
    · exact (getBit_ends h).bind fun _ _ h1 => ih h1.update

theorem decodeSymbol_ends (h : Within .decode s u) : Ends .decode s (Within .decode s) (decodeSymbol u) := by
  unfold decodeSymbol
  split
  · exact (sinkBytes_ends h (.inr rfl) _).bind fun _ _ h1 => h1.update
  · exact (descend_ends _ h.update).bind fun _ _ h1 => sinkBytes_ends h1 (.inr rfl) _

theorem decodeLoop_ends (n : Nat) (h : Within .decode s u) : Ends .decode s (Within .decode s) (decodeLoop n u) := by
  induction n generalizing u with
  | zero => exact h
  | succ n ih =>
    unfold decodeLoop
    split
    · exact (decodeSymbol_ends h).bind fun _ _ h1 => ih h1
    · exact h

end Container

/-! ## The effect of each operation -/

section Effects

variable {s t : State}

theorem startCommand_effect {i j : Instr} {m : Mode} (hc : commandStart i = some (m, j))
    (hcodes : abortCodes i = [(.sourceUnavailable, .none), (.sourceUnavailable, .tooLong)])
    (h : (if busy s then .next s else finish (startCommand m j s)) = .next t) : Effect s i t := by
  have hu : Within i (accept m s) { accept m s with srcOkNext := s.srcOkNext.tail } :=
    (Within.refl i _).update
  split at h
  · cases h
    exact .keeps
  · next hbusy =>
    rw [startCommand_eq] at h
    split at h
    · cases h
      exact .rejects hc ⟨_, _, _, hu, by simp [hcodes], rfl⟩
    · split at h
      · cases h
        exact .rejects hc ⟨_, _, _, hu, by simp [hcodes], rfl⟩
      · next hcap =>
        cases h
        exact .starts hc (by simpa using hbusy) (not_lt.1 hcap) hu

theorem execHist_effect (h : execHist s = .next t) : Effect s .hist t := by
  have loop : Ends .hist s (Within .hist s) (histLoop s.srcLen.toNat { histClr s with idx := 0 }) :=
    histLoop_ends _ (Within.refl _ s).update (by simp)
  exact (loop.thenPhase fun _ => rfl).effect rfl h

theorem execLeaves_effect (h : execLeaves s = .next t) : Effect s .leaves t := by
  have loop : Within .leaves s (leavesCount (leavesLoop 256 (leavesInit s))) :=
    leavesCount_within (leavesLoop_within _ (Within.refl _ s).update)
  obtain rfl := Host.Outcome.next.inj h
  exact .goesOn loop rfl

theorem execMerge_effect (h : execMerge s = .next t) : Effect s .merge t :=
  ((mergeLoop_ends _ (.refl _ s)).bind fun _ _ h1 => (chooseRoot_ends h1).thenPhase fun _ => rfl).effect rfl h

theorem execCodes_effect (h : execCodes s = .next t) : Effect s .codes t :=
  ((walkRoot_ends (Within.refl _ s).update).thenPhase fun _ => rfl).effect rfl h

theorem execPack_effect (h : execPack s = .next t) : Effect s .pack t := by
  have loop : Ends .pack s (Within .pack s) (packLoop s.srcLen.toNat { bpInit s with idx := 0 }) :=
    packLoop_ends _ (Within.refl _ s).update (by simp)
  exact (loop.thenPhase fun _ => rfl).effect rfl h

theorem execFlush_effect (h : execFlush s = .next t) : Effect s .flush t := by
  cases h
  exact .goesOn (padLoop_within _ (putBit_within _ (.refl _ s))) rfl

theorem execEmit_effect (h : execEmit s = .next t) : Effect s .emit t := by
  refine Ends.effect ((sinkBytes_ends (.refl _ s) (.inl rfl) _).bind fun _ u hu => ?_) rfl h
  split
  · exact .finishes _ (by decide) hu
  · refine (emitRecords_ends _ hu.update).bind fun _ u2 h2 =>
      (sinkBytes_ends h2 (.inl rfl) _).bind fun _ u3 h3 =>
      (emitPayload_ends _ h3.update).bind fun _ u4 h4 => ?_
    exact .finishes _ (by decide) h4

theorem execDhdr_effect (h : execDhdr s = .next t) : Effect s .dhdr t := by
  refine Ends.effect ((memRead_ends (.refl _ s) (by decide) (by decide)).bind fun c u hu => ?_) rfl h
  split
  · exact .finishes _ (by decide) hu
  · split
    · exact ends_raise hu (by decide)
    · exact Effect.goesOn hu.update rfl

theorem execDrecs_effect (h : execDrecs s = .next t) : Effect s .drecs t :=
  ((readRecords_ends _ (Within.refl _ s).update).thenPhase fun _ => rfl).effect rfl h

theorem execDbits_effect (h : execDbits s = .next t) : Effect s .dbits t := by
  refine Ends.effect ((memRead_ends (.refl _ s) (by decide) (by decide)).bind fun v u hu => ?_) rfl h
  dsimp only
  split
  · exact ends_raise hu.update (by decide)
  · exact Effect.goesOn hu.update rfl

theorem execDecode_effect (h : execDecode s = .next t) : Effect s .decode t := by
  refine Ends.effect ((decodeLoop_ends _ (Within.refl _ s).update).bind fun _ u hu => ?_) rfl h
  exact .finishes _ (by decide) hu

/-- The inversion of `exec`. -/
theorem exec_effect {i : Instr} (h : exec i s = .next t) : Effect s i t := by
  cases i with
  | nop | cmdReserved3 | idle | done | error => cases h; exact .keeps
  | compress | decompress => exact startCommand_effect rfl rfl h
  | hist => exact execHist_effect h
  | leaves => exact execLeaves_effect h
  | merge => exact execMerge_effect h
  | codes => exact execCodes_effect h
  | pack => exact execPack_effect h
  | flush => exact execFlush_effect h
  | emit => exact execEmit_effect h
  | dhdr => exact execDhdr_effect h
  | drecs => exact execDrecs_effect h
  | dbits => exact execDbits_effect h
  | decode => exact execDecode_effect h
  | phaseUnreachable14 | phaseUnreachable15 => cases h

end Effects

end Sys2Proof.Proofs

namespace Sys2Proof.Proofs

open Sys2Proof.Machine Sys2Proof.Safety

/-! # What a step can do

`step_cases` is the inversion of `step`: an operation, or a move of the host, of which `HostEffect` says all it can do. -/

section HostMoves

variable {s t : State} {rest : List HostMove}

/-! ## One step, by the host's next move -/

theorem step_nil (h : s.host = []) : step s = exec (phaseOp s) s := by
  simp [step, nextMove, h]

theorem step_engine (h : s.host = .engine :: rest) : step s = exec (phaseOp s) { s with host := rest } := by
  simp [step, nextMove, h, phaseOp]

theorem step_wait_busy (h : s.host = .wait :: rest) (hb : busy s = true) : step s = exec (phaseOp s) s := by
  simp [step, nextMove, h, hb]

theorem step_wait_idle (h : s.host = .wait :: rest) (hb : busy s = false) :
    step s = .next { s with host := rest, rdata := regRead 1 s } := by
  simp only [step, nextMove, h, hb]
  rfl

theorem step_command {v : Nat} (h : s.host = .regWrite 0 v :: rest) :
    step s = exec (decodeCmd (cmdField v)) { s with host := rest } := by
  simp [step, nextMove, h]

theorem step_regWrite {n : Fin 8} {v : Nat} (h : s.host = .regWrite n v :: rest) (hn : n ≠ 0) :
    step s = regWrite n v { s with host := rest } := by
  simp [step, nextMove, h, Fin.val_eq_zero_iff, hn]

theorem step_regRead {n : Fin 8} (h : s.host = .regRead n :: rest) :
    step s = .next { s with host := rest, rdata := regRead n s } := by
  simp only [step, nextMove, h]
  rfl

theorem step_placeSource {off : Nat} {bs : List Byte} (h : s.host = .placeSource off bs :: rest) :
    step s = placeSource off bs { s with host := rest } := by
  simp [step, nextMove, h]

theorem step_driveSrcOk {next : List Bool} {level : Bool} (h : s.host = .driveSrcOk next level :: rest) :
    step s = .next { s with host := rest, srcOkNext := next, srcOk := level } := by
  simp [step, nextMove, h]

theorem step_driveSnkOk {next : List Bool} {level : Bool} (h : s.host = .driveSnkOk next level :: rest) :
    step s = .next { s with host := rest, snkOkNext := next, snkOk := level } := by
  simp [step, nextMove, h]

theorem step_drainSink {n : Nat} (h : s.host = .drainSink n :: rest) :
    step s = .next { s with host := rest, snk := s.snk.drop n } := by
  simp [step, nextMove, h]

theorem step_rst (h : s.host = .rst :: rest) : step s = .next (applyReset { s with host := rest }) := by
  simp [step, nextMove, h]

/-- RST touches neither SRC nor the inputs nor the host (spec/70_reset_and_hazards.md R280). -/
theorem applyReset_keeps (s : State) :
    (applyReset s).src = s.src ∧ (applyReset s).host = s.host ∧ (applyReset s).srcOk = s.srcOk ∧
    (applyReset s).srcOkNext = s.srcOkNext ∧ (applyReset s).snkOk = s.snkOk ∧ (applyReset s).snkOkNext = s.snkOkNext := by
  unfold applyReset
  dsimp only
  split <;> exact ⟨rfl, rfl, rfl, rfl, rfl, rfl⟩

/-! ## The host's moves, and the inversion of a step -/

/-- All that a next state of a host move other than a command can be; the move itself is already taken off the list. -/
inductive HostEffect (s : State) : State → Prop
  | reads (v : Word64) : HostEffect s { s with rdata := v }
  | ignored : HostEffect s s
  | writesSrcLen (v : Word64) (hbusy : busy s = false) : HostEffect s { s with srcLen := v }
  | places (off : Nat) (bs : List Byte) : HostEffect s { s with src := writeBytes s.src off bs }
  | drivesSrcOk (next : List Bool) (level : Bool) : HostEffect s { s with srcOkNext := next, srcOk := level }
  | drivesSnkOk (next : List Bool) (level : Bool) : HostEffect s { s with snkOkNext := next, snkOk := level }
  | drains (n : Nat) : HostEffect s { s with snk := s.snk.drop n }
  | resets : HostEffect s (applyReset s)

theorem regWrite_effect {n : Fin 8} {v : Nat} (h : regWrite n v s = .next t) : HostEffect s t := by
  unfold regWrite at h
  split at h
  · split at h
    · cases h
    · next hbusy =>
      cases h
      exact .writesSrcLen _ (by simpa using hbusy)
  · cases h
    exact .ignored

theorem placeSource_effect {off : Nat} {bs : List Byte} (h : placeSource off bs s = .next t) : HostEffect s t := by
  unfold placeSource at h
  split at h
  · cases h
  · split at h
    · cases h
    · cases h
      exact .places off bs

/-- The operation PHASE selects is the one whose code PHASE holds. -/
theorem phaseCode_decodePhase : ∀ ph : BitVec 4, phaseCode (decodePhase ph) = ph := by decide

theorem formatOf_decodeCmd : ∀ op : BitVec 2, formatOf (decodeCmd op) = .cmd := by decide

/-- A step executes a command, or the operation PHASE selects, or answers a move of the host. -/
theorem step_cases (h : step s = .next t) : ∃ rest,
    (∃ i, (formatOf i = .phase → s.phase = phaseCode i) ∧ exec i { s with host := rest } = .next t) ∨
    HostEffect { s with host := rest } t := by
  have selected : formatOf (phaseOp s) = .phase → s.phase = phaseCode (phaseOp s) := fun _ =>
    (phaseCode_decodePhase s.phase).symm
  rcases hs : s.host with _ | ⟨m, rest⟩
  · exact ⟨s.host, .inl ⟨phaseOp s, selected, step_nil hs ▸ h⟩⟩
  · cases m with
    | regWrite n v =>
      by_cases hn : n = 0
      · subst hn
        have command : formatOf (decodeCmd (cmdField v)) = .cmd := formatOf_decodeCmd _
        exact ⟨rest, .inl ⟨_, fun hp => absurd (command.symm.trans hp) (by decide), step_command hs ▸ h⟩⟩
      · exact ⟨rest, .inr (regWrite_effect (step_regWrite hs hn ▸ h))⟩
    | regRead n =>
      obtain rfl := Host.Outcome.next.inj ((step_regRead hs).symm.trans h)
      exact ⟨rest, .inr (.reads _)⟩
    | placeSource off bs => exact ⟨rest, .inr (placeSource_effect (step_placeSource hs ▸ h))⟩
    | driveSrcOk next level =>
      obtain rfl := Host.Outcome.next.inj ((step_driveSrcOk hs).symm.trans h)
      exact ⟨rest, .inr (.drivesSrcOk next level)⟩
    | driveSnkOk next level =>
      obtain rfl := Host.Outcome.next.inj ((step_driveSnkOk hs).symm.trans h)
      exact ⟨rest, .inr (.drivesSnkOk next level)⟩
    | drainSink n =>
      obtain rfl := Host.Outcome.next.inj ((step_drainSink hs).symm.trans h)
      exact ⟨rest, .inr (.drains n)⟩
    | rst =>
      obtain rfl := Host.Outcome.next.inj ((step_rst hs).symm.trans h)
      exact ⟨rest, .inr .resets⟩
    | engine => exact ⟨rest, .inl ⟨phaseOp s, selected, step_engine hs ▸ h⟩⟩
    | wait =>
      cases hb : busy s with
      | true => exact ⟨s.host, .inl ⟨phaseOp s, selected, step_wait_busy hs hb ▸ h⟩⟩
      | false =>
        obtain rfl := Host.Outcome.next.inj ((step_wait_idle hs hb).symm.trans h)
        exact ⟨rest, .inr (.reads _)⟩

/-- A predicate that does not depend on the host's list of moves is kept by every step when every operation and every move of the
host keeps it. -/
theorem step_keeps {P : State → Prop} (hhost : ∀ s rest, P s → P { s with host := rest })
    (hexec : ∀ s t i, P s → (formatOf i = .phase → s.phase = phaseCode i) → exec i s = .next t → P t)
    (hmove : ∀ s t, P s → HostEffect s t → P t) (hs : P s) (h : step s = .next t) : P t := by
  obtain ⟨rest, ⟨i, hi, he⟩ | hm⟩ := step_cases h
  · exact hexec _ t i (hhost s rest hs) hi he
  · exact hmove _ t (hhost s rest hs) hm

end HostMoves

end Sys2Proof.Proofs

namespace Sys2Proof.Proofs

open Sys2Proof.Machine Sys2Proof.Safety

/-! # The whole-machine rules, read off `Effect` and `HostEffect` -/

/-! ## The host's part of the state, the byte memories and the sink -/

section Frame

variable {i : Instr} {s u t : State}

/-- The fields the host owns are as they were (spec/10_state.md R26, R45, spec/20_memory.md R61). -/
abbrev hostPartKept (s t : State) : Prop :=
  t.src = s.src ∧ t.srcLen = s.srcLen ∧ t.cfg = s.cfg ∧ t.host = s.host ∧ t.rdata = s.rdata ∧ t.srcOk = s.srcOk ∧
  t.snkOk = s.snkOk

/-- What every operation keeps, whichever way it ends: the host's part, the form of PBUF, and, but for EMIT and DECODE, the sink
(spec/20_memory.md R62), unless it `failed`. -/
abbrev framed (i : Instr) (s t : State) (failed : Prop) : Prop :=
  hostPartKept s t ∧ (Memory.wf s.pbuf → Memory.wf t.pbuf) ∧ (i ≠ .emit → i ≠ .decode → t.snk = s.snk ∨ failed)

theorem Within.framed (h : Within i s u) (failed : Prop) : framed i s u failed :=
  ⟨⟨h.src, h.srcLen, h.cfg, h.host, h.rdata, h.srcOk, h.snkOk⟩, h.pbuf, fun he hd => .inl (h.sink he hd).1⟩

theorem Aborted.framed (h : Aborted i s t) : framed i s t (t.phase = phaseCode .error) := by
  obtain ⟨u, e, c, hu, -, rfl⟩ := h
  obtain ⟨hhost, hpbuf, -⟩ := hu.framed False
  exact ⟨hhost, hpbuf, fun _ _ => .inr rfl⟩

theorem Effect.framed (h : Effect s i t) : framed i s t (t.phase = phaseCode .error) := by
  cases h with
  | keeps => exact (Within.refl i s).framed _
  | starts hc hbusy hcap hu => exact hu.framed _
  | rejects hc ht => exact ht.framed
  | goesOn hu hj => exact hu.framed _
  | finishes n hi hu => exact hu.framed _
  | aborts hi ht => exact ht.framed

theorem Effect.memoryOk (h : Effect s i t) (hs : memoryOk s) : memoryOk t := by
  obtain ⟨⟨hsrc, -⟩, hpbuf, -⟩ := h.framed
  exact ⟨hsrc ▸ hs.1, hpbuf hs.2⟩

theorem HostEffect.memoryOk (h : HostEffect s t) (hs : memoryOk s) : memoryOk t := by
  cases h with
  | places off bs => exact ⟨writeBytes_wf bs s.src off hs.1, hs.2⟩
  | resets => exact ⟨(applyReset_keeps s).1 ▸ hs.1, (resetWith_memory_wf s.cfg).2⟩
  | _ => exact hs

end Frame

/-! ## The control registers -/

section Control

variable {i j : Instr} {m : Mode} {s u t : State}

/-- The phases in which a command runs (spec/10_state.md R23). -/
def workPhases : List Instr := [.hist, .leaves, .merge, .codes, .pack, .flush, .emit, .dhdr, .drecs, .dbits, .decode]

/-- The registers of a running command, between two phases. -/
structure Running (s : State) : Prop where
  err : s.err = 0
  subErr : s.subErr = 0
  countIn : s.countIn = 0
  countOut : s.countOut = 0
  cap : s.srcLen.toNat ≤ s.cfg.srcCap.toNat
  outcnt : s.outcnt = 0

/-- A mode in which a phase can stand (spec/46_commands_fsm.md R236). -/
abbrev agrees (i : Instr) (m : Mode) : Prop :=
  (phaseCode i ∈ compressPhases → m = .compress) ∧ (phaseCode i ∈ decompressPhases → m = .decompress)

theorem workPhases_busy : ∀ j ∈ workPhases, (phaseCode j).toNat ≤ 13 ∧ statusOf (phaseCode j) = 1 ∧
    phaseCode j ≠ phaseCode .error ∧ phaseCode j ≠ phaseCode .done := by decide

theorem decompressing_codes : ∀ j ∈ [Instr.dhdr, .drecs, .dbits, .decode], phaseCode j ∈ decompressPhases := by decide

theorem Running.within (h : Running s) (hu : Within i s u) (hi : i ≠ .emit ∧ i ≠ .decode) : Running u where
  err := hu.err.trans h.err
  subErr := hu.subErr.trans h.subErr
  countIn := hu.countIn.trans h.countIn
  countOut := hu.countOut.trans h.countOut
  cap := hu.srcLen ▸ hu.cfg ▸ h.cap
  outcnt := (hu.sink hi.1 hi.2).2.trans h.outcnt

theorem running_accept (m : Mode) (h : s.srcLen.toNat ≤ s.cfg.srcCap.toNat) : Running (accept m s) :=
  ⟨rfl, rfl, rfl, rfl, h, rfl⟩

theorem running_of_controlOk (hs : controlOk s) (hp : s.phase = phaseCode i) (hi : i ∈ workPhases) : Running s := by
  obtain ⟨-, -, -, herr, -, hcount, hrun⟩ := hs
  obtain ⟨-, hbusy, hne, hnd⟩ := workPhases_busy i hi
  obtain ⟨h1, h2⟩ := herr (hp ▸ hne)
  obtain ⟨h3, h4⟩ := hcount (hp ▸ hnd)
  obtain ⟨h5, h6⟩ := hrun (by simp [busy, hp, hbusy])
  exact ⟨h1, h2, h3, h4, h5, h6⟩

/-! Where the operations go, and what they raise. -/

theorem afterMerge_work (u : State) : afterMerge u ∈ workPhases ∧ agrees (afterMerge u) u.mode := by
  unfold afterMerge
  cases u.mode <;> cases u.rootValid <;> decide

theorem nextOp_work (h : nextOp u i = some j) : i ∈ workPhases ∧ j ∈ workPhases := by
  cases i with
  | merge => cases h; exact ⟨by decide, (afterMerge_work u).1⟩
  | _ => cases h <;> decide

theorem nextOp_agrees (h : nextOp u i = some j) (hi : agrees i u.mode) : agrees j u.mode := by
  cases i with
  | merge => cases h; exact (afterMerge_work u).2
  | _ => cases h <;> (revert hi; cases u.mode <;> decide)

theorem nextOp_ne_appending {j : Instr} (h : nextOp u i = some j) : i ≠ .emit ∧ i ≠ .decode := by
  constructor <;> (rintro rfl; cases h)

theorem commandStart_ne_appending {c : Mode × Instr} (h : commandStart i = some c) : i ≠ .emit ∧ i ≠ .decode := by
  constructor <;> (rintro rfl; cases h)

theorem commandStart_work (h : commandStart i = some (m, j)) : formatOf i = .cmd ∧ j ∈ workPhases ∧ agrees j m := by
  cases i with
  | compress | decompress => cases h; decide
  | _ => cases h

/-- A pair an operation raises is a legal one, and FormatError comes from a phase of DECOMPRESS (spec/60_exceptions.md R252, R255). -/
theorem abortCodes_legal (i : Instr) : ∀ p ∈ abortCodes i,
    legalError (errCode p.1) (subCode p.2) ∧ (errCode p.1 = 2 → i ∈ [Instr.dhdr, .drecs, .dbits, .decode]) := by
  cases i <;> decide

/-! The control registers after each way to end. -/

theorem controlOk_toPhase (hu : Running u) (hj : j ∈ workPhases) (hm : agrees j u.mode) : controlOk (toPhase j u) := by
  obtain ⟨hle, -, hne, hnd⟩ := workPhases_busy j hj
  exact ⟨hle, hm.1, hm.2, fun _ => ⟨hu.err, hu.subErr⟩, fun h => absurd h hne, fun _ => ⟨hu.countIn, hu.countOut⟩,
    fun _ => ⟨hu.cap, hu.outcnt⟩⟩

/-- A state in which no command runs. -/
theorem controlOk_of_resting (hp : s.phase ∈ [Instr.idle, .done, .error].map phaseCode)
    (herr : s.phase ≠ phaseCode .error → s.err = 0 ∧ s.subErr = 0)
    (hpair : s.phase = phaseCode .error → legalError s.err s.subErr ∧ (s.err = 2 → s.mode = .decompress))
    (hcount : s.phase ≠ phaseCode .done → s.countIn = 0 ∧ s.countOut = 0) : controlOk s := by
  have resting : ∀ ph ∈ [Instr.idle, .done, .error].map phaseCode,
      ph.toNat ≤ 13 ∧ ph ∉ compressPhases ∧ ph ∉ decompressPhases ∧ (statusOf ph == 1) ≠ true := by decide
  obtain ⟨hle, hcomp, hdecomp, hbusy⟩ := resting _ hp
  exact ⟨hle, fun h => absurd h hcomp, fun h => absurd h hdecomp, herr, hpair, hcount, fun h => absurd h hbusy⟩

theorem controlOk_enterDone (n : Nat) (herr : u.err = 0) (hsub : u.subErr = 0) : controlOk (enterDone n u) :=
  controlOk_of_resting (show phaseCode .done ∈ _ by decide) (fun _ => ⟨herr, hsub⟩)
    (fun h => absurd h (show phaseCode .done ≠ phaseCode .error by decide)) (fun h => absurd rfl h)

theorem controlOk_takeAbort {e : ErrKind} {c : SubCause} (hl : legalError (errCode e) (subCode c))
    (hm : errCode e = 2 → u.mode = .decompress) : controlOk (takeAbort e c u) :=
  controlOk_of_resting (show phaseCode .error ∈ _ by decide) (fun h => absurd rfl h) (fun _ => ⟨hl, hm⟩) (fun _ => ⟨rfl, rfl⟩)

theorem controlOk_resetWith (c : Config) : controlOk (State.resetWith c) :=
  controlOk_of_resting (show phaseCode .idle ∈ _ by decide) (fun _ => ⟨rfl, rfl⟩)
    (fun h => absurd h (show phaseCode .idle ≠ phaseCode .error by decide)) (fun _ => ⟨rfl, rfl⟩)

theorem Aborted.controlOk (h : Aborted i s t) (hm : i ∈ [Instr.dhdr, .drecs, .dbits, .decode] → s.mode = .decompress) :
    controlOk t := by
  obtain ⟨u, e, c, hu, hc, rfl⟩ := h
  obtain ⟨hlegal, hformat⟩ := abortCodes_legal i _ hc
  exact controlOk_takeAbort hlegal fun h2 => hu.mode.trans (hm (hformat h2))

theorem Effect.controlOk (h : Effect s i t) (hs : controlOk s) (hi : formatOf i = .phase → s.phase = phaseCode i) :
    controlOk t := by
  have ⟨_, hcomp, hdecomp, herr, _, _, _⟩ := hs
  cases h with
  | keeps => exact hs
  | starts hc hbusy hcap hu =>
    obtain ⟨-, hj, hagrees⟩ := commandStart_work hc
    exact controlOk_toPhase ((running_accept _ hcap).within hu (commandStart_ne_appending hc)) hj (hu.mode ▸ hagrees)
  | rejects hc ht =>
    refine ht.controlOk fun hi => ?_
    have : formatOf i = .cmd := (commandStart_work hc).1
    fin_cases hi <;> cases this
  | @goesOn j u hu hj =>
    obtain ⟨hwork, hjwork⟩ := nextOp_work hj
    have hp : s.phase = phaseCode i := hi (by revert hwork; cases i <;> decide)
    have hagrees : agrees i u.mode := by
      rw [hu.mode, agrees, ← hp]
      exact ⟨hcomp, hdecomp⟩
    exact controlOk_toPhase ((running_of_controlOk hs hp hwork).within hu (nextOp_ne_appending hj)) hjwork
      (nextOp_agrees hj hagrees)
  | finishes n hend hu =>
    have hne : formatOf i = .phase ∧ phaseCode i ≠ phaseCode .error := by fin_cases hend <;> decide
    obtain ⟨h1, h2⟩ := herr (hi hne.1 ▸ hne.2)
    exact controlOk_enterDone n (hu.err.trans h1) (hu.subErr.trans h2)
  | aborts hf ht => exact ht.controlOk fun hd => hdecomp (hi hf ▸ decompressing_codes i hd)

theorem HostEffect.controlOk (h : HostEffect s t) (hs : controlOk s) : controlOk t := by
  cases h with
  | writesSrcLen v hbusy =>
    obtain ⟨hphase, hcomp, hdecomp, herr, hpair, hcount, -⟩ := hs
    exact ⟨hphase, hcomp, hdecomp, herr, hpair, hcount, fun hb => absurd (hbusy.symm.trans hb) (by decide)⟩
  | resets => exact controlOk_resetWith s.cfg
  | _ => exact hs

end Control

/-- Settles O55: a placement writes SRC byte by byte, the packer writes PBUF byte by byte, and nothing else touches either. -/
theorem stepKeepsMemoryForm : Obligations.StepKeepsMemoryForm := by
  intro s t hs h
  exact step_keeps (P := fun s => memoryOk s) (fun _ _ h => h) (fun _ _ _ hs _ h => (exec_effect h).memoryOk hs)
    (fun _ _ hs h => h.memoryOk hs) hs h

/-- Settles O56, by the effect of each operation and of each move of the host. -/
theorem stepKeepsControl : Obligations.StepKeepsControl := by
  intro s t hs h
  exact step_keeps (P := fun s => controlOk s) (fun _ _ h => h) (fun _ _ _ hs hi h => (exec_effect h).controlOk hs hi)
    (fun _ _ hs h => h.controlOk hs) hs h

/-- Settles O53: what every operation keeps, whichever way it ends. -/
theorem engineLeavesHostStateAlone : Obligations.EngineLeavesHostStateAlone := by
  intro s t i h
  obtain ⟨⟨hsrc, hlen, hcfg, hhost, hrdata, hsrcOk, hsnkOk⟩, -, hsink⟩ := (exec_effect h).framed
  exact ⟨hsrc, hlen, hcfg, hhost, hrdata, hsrcOk, hsnkOk, hsink⟩

end Sys2Proof.Proofs

namespace Sys2Proof.Proofs

open Sys2Proof.Machine Sys2Proof.Safety

/-! # Reset, the host's registers, and the placing of source bytes -/

/-! ## Reset -/

section Reset

/-- At reset no phase is under way, so none has anything to find ready. -/
theorem phaseReady_resetWith (c : Config) : phaseReady (State.resetWith c) := by
  have idle : ∀ i ∈ workPhases, (State.resetWith c).phase ≠ phaseCode i :=
    (by decide : ∀ i ∈ workPhases, phaseCode .idle ≠ phaseCode i)
  have notAt {i : Instr} (hi : i ∈ workPhases) {P : Prop} (h : (State.resetWith c).phase = phaseCode i) : P :=
    absurd h (idle i hi)
  refine ⟨notAt (by decide), notAt (by decide), notAt (by decide), ?_, notAt (by decide), ?_, notAt (by decide),
    notAt (by decide), notAt (by decide)⟩
  · rintro (h | h | h) <;> exact notAt (by decide) h
  · rintro (h | h | h | h) <;> exact notAt (by decide) h

theorem regRead_resetWith (c : Config) (n : Fin 8) : regRead n (State.resetWith c) = 0 := by
  unfold regRead
  split <;> rfl

theorem applyReset_snk_idle {s : State} (hb : busy s = false) : (applyReset s).snk = s.snk := by
  simp [applyReset, hb]

/-- The bytes of an abandoned command are unknown (spec/70_reset_and_hazards.md R289). -/
theorem applyReset_snk_busy {s : State} (hb : busy s = true) :
    ∃ more, (applyReset s).snk = s.snk.take (s.snk.length - s.outcnt.toNat) ++ more :=
  ⟨Config.sinkAfterFailure s.draws, by simp [applyReset, hb]⟩

/-- After RST the host reads what it reads after power-on. -/
theorem regRead_applyReset (s : State) (n : Fin 8) : regRead n (applyReset s) = regRead n (State.resetWith s.cfg) := rfl

end Reset

/-- Settles O58: at reset both memories are empty, the control registers are 0, and no phase is under way. -/
theorem resetMeetsInvariants : Obligations.ResetMeetsInvariants := fun c =>
  ⟨resetWith_memory_wf c, controlOk_resetWith c, phaseReady_resetWith c⟩

/-- Settles O42: RST gives every register the value it has in `State.resetWith`. -/
theorem resetEffect : Obligations.ResetEffect := by
  refine ⟨fun c => ⟨rfl, regRead_resetWith c⟩, fun s rest h => ⟨_, step_rst h, rfl, ?_, rfl, ?_⟩⟩
  · exact fun n => (regRead_applyReset _ n).trans (regRead_resetWith _ n)
  · obtain ⟨hsrc, hhost, hsrcOk, hsrcNext, hsnkOk, hsnkNext⟩ := applyReset_keeps { s with host := rest }
    exact ⟨hsrc, hhost, hsrcOk, hsrcNext, hsnkOk, hsnkNext, applyReset_snk_idle (s := { s with host := rest }),
      applyReset_snk_busy (s := { s with host := rest })⟩

/-! ## The host's registers -/

section Registers

/-- `ST` by the number in PHASE (spec/10_state.md R23). -/
theorem statusOf_toNat : ∀ ph : BitVec 4, (statusOf ph).toNat =
    if ph.toNat = 0 then 0 else if ph.toNat = 12 then 2 else if ph.toNat = 13 then 3 else 1 := by decide

theorem regRead_values (s : State) : (List.range 8).map (fun n => regRead (Fin.ofNat 8 n) s) =
    [0, (statusOf s.phase).setWidth 64, s.err.setWidth 64, s.subErr.setWidth 64, s.srcLen, s.countIn, s.countOut, 0] := rfl

theorem regWrite_srcLen_idle {s : State} (v : Nat) (hb : busy s = false) :
    regWrite 4 v s = .next { s with srcLen := BitVec.ofNat 64 v } := by
  simp [regWrite, hb]

theorem regWrite_srcLen_busy {s : State} (v : Nat) (hb : busy s = true) :
    regWrite 4 v s = .refused .sourceChangedWhileBusy := by
  simp [regWrite, hb]

theorem regWrite_ignored {n : Fin 8} (v : Nat) (s : State) (hn : n ≠ 4) : regWrite n v s = .next s :=
  if_neg fun h => hn (Fin.ext h)

end Registers

/-- Settles O43, by the values of the eight registers and the three cases of a write. -/
theorem registerFile : Obligations.RegisterFile := by
  refine ⟨fun s => ?_, fun s n rest h => step_regRead h, fun s n v rest h => ⟨?_, ?_, ?_⟩⟩
  · have values := congrArg (List.map BitVec.toNat) (regRead_values s)
    rw [List.map_map] at values
    refine values.trans ?_
    have herr := s.err.isLt
    have hsub := s.subErr.isLt
    have hst := (statusOf s.phase).isLt
    simp only [List.map_cons, List.map_nil, BitVec.toNat_setWidth, ← statusOf_toNat]
    congr <;> exact Nat.mod_eq_of_lt (by omega)
  · rintro rfl hb
    have low : BitVec.ofNat 64 (v % 2 ^ 64) = BitVec.ofNat 64 v := BitVec.eq_of_toNat_eq (by simp)
    rw [low]
    exact (step_regWrite h (by decide)).trans (regWrite_srcLen_idle v hb)
  · rintro rfl hb
    exact (step_regWrite h (by decide)).trans (regWrite_srcLen_busy v hb)
  · intro h0 h4
    exact (step_regWrite h h0).trans (regWrite_ignored v _ h4)

/-! ## The source window and the inputs -/

section Source

/-- A read after a placement: the placed bytes where they were placed, and every other byte as before. -/
theorem readByte_writeBytes (bs : List Byte) (m : Memory) (off a : Nat) :
    readByte (writeBytes m off bs) a =
      if h : off ≤ a ∧ a - off < bs.length then bs[a - off] else readByte m a := by
  induction bs generalizing m off with
  | nil => simp [writeBytes]
  | cons b bs ih =>
    rw [writeBytes, ih, readByte_writeByte]
    obtain hlt | rfl | hgt := lt_trichotomy a off
    · rw [dif_neg (by omega), dif_neg (by omega), if_neg (by omega)]
    · rw [dif_neg (by omega), if_pos rfl, dif_pos (by simp)]
      simp
    · have hd : a - off = a - (off + 1) + 1 := by omega
      by_cases hin : a - (off + 1) < bs.length
      · rw [dif_pos ⟨hgt, hin⟩, dif_pos ⟨hgt.le, by rw [List.length_cons]; omega⟩]
        simp only [hd, List.getElem_cons_succ]
      · rw [dif_neg (by tauto), if_neg hgt.ne, dif_neg (by rw [List.length_cons]; omega)]

/-- The samples an input gives: those listed, and then its level. -/
theorem sampleAt_eq_dite (next : List Bool) (level : Bool) (k : Nat) :
    sampleAt next level k = if h : k < next.length then next[k] else level := by
  unfold sampleAt
  split
  · next h => simp [h]
  · next h => simp [not_lt.1 h]

variable {s : State} {off : Nat} {bs : List Byte}

theorem placeSource_refused (hw : off + bs.length ≤ 2 ^ 64) (hb : busy s = true) (hoff : off < s.srcLen.toNat) (hne : bs ≠ []) :
    placeSource off bs s = .refused .sourceChangedWhileBusy := by
  rw [placeSource, if_neg (not_lt.2 hw), if_pos (by simp [hb, hoff, hne])]

theorem placeSource_places (hw : off + bs.length ≤ 2 ^ 64) (hfree : busy s = false ∨ s.srcLen.toNat ≤ off) :
    placeSource off bs s = .next { s with src := writeBytes s.src off bs } := by
  rw [placeSource, if_neg (not_lt.2 hw), if_neg]
  rcases hfree with hb | hoff
  · simp [hb]
  · simp [not_lt.2 hoff]

end Source

/-- Settles O44: a placement is read back byte by byte, and the samples an input gives are those it was driven with. -/
theorem sourcePlacement : Obligations.SourcePlacement := by
  refine ⟨fun s off bs rest h hw => ⟨fun hb hoff hne => ?_, fun hfree => ?_⟩, fun s next level rest h => ?_,
    fun s next level rest h => ?_, fun s n rest h => step_drainSink h⟩
  · exact (step_placeSource h).trans (placeSource_refused hw hb hoff hne)
  · exact ⟨_, (step_placeSource h).trans (placeSource_places hw hfree), rfl, readByte_writeBytes bs s.src off⟩
  · exact ⟨_, step_driveSrcOk h, rfl, sampleAt_eq_dite next level⟩
  · exact ⟨_, step_driveSnkOk h, rfl, sampleAt_eq_dite next level⟩

end Sys2Proof.Proofs

namespace Sys2Proof.Proofs

open Sys2Proof.Machine Sys2Proof.Safety

/-! # The memory primitives, the abort, and the choice of the operation -/

/-! ## Samples -/

section Samples

variable {s u : State}

/-- Of the next `n` samples either all are 1, or one is the first that is 0. -/
theorem ready_or_firstBad (sample : Nat → Bool) (n : Nat) :
    (∀ k < n, sample k = true) ∨ ∃ k < n, (∀ j < k, sample j = true) ∧ sample k = false := by
  induction n with
  | zero => exact .inl fun k hk => absurd hk (Nat.not_lt_zero k)
  | succ n ih =>
    obtain hready | ⟨k, hk, hbad⟩ := ih
    · cases hn : sample n with
      | false => exact .inr ⟨n, n.lt_succ_self, hready, hn⟩
      | true => exact .inl fun k hk => (Nat.lt_succ_iff_lt_or_eq.1 hk).elim (hready k) fun h => h ▸ hn
    · exact .inr ⟨k, hk.trans n.lt_succ_self, hbad⟩

/-- After `n` samples of `SRC_OK` the coming ones are counted on from there. -/
theorem srcSample_drop {n : Nat} (hnext : u.srcOkNext = s.srcOkNext.drop n) (hlevel : u.srcOk = s.srcOk) (k : Nat) :
    srcSample u k = srcSample s (n + k) := by
  rw [srcSample, hnext, hlevel, sampleAt_drop, srcSample]

theorem snkSample_drop {n : Nat} (hnext : u.snkOkNext = s.snkOkNext.drop n) (hlevel : u.snkOk = s.snkOk) (k : Nat) :
    snkSample u k = snkSample s (n + k) := by
  rw [snkSample, hnext, hlevel, sampleAt_drop, snkSample]

end Samples

/-! ## MemRead and MemWrite -/

section Primitives

/-- The little-endian value of the bytes from an address on (spec/20_memory.md R64). -/
theorem leNat_readBytes (m : Memory) (a n : Nat) :
    leNat (readBytes m a n) = ((List.range n).map fun k => 256 ^ k * (readByte m (a + k)).toNat).sum := by
  induction n generalizing a with
  | zero => rfl
  | succ n ih =>
    have shift : ∀ k, 256 ^ (k + 1) * (readByte m (a + (k + 1))).toNat = 256 * (256 ^ k * (readByte m (a + 1 + k)).toNat) := by
      intro k
      rw [pow_succ', Nat.mul_assoc, Nat.add_comm k 1, Nat.add_assoc]
    rw [readBytes, leNat, ih, List.range_succ_eq_map, List.map_cons, List.map_map, List.sum_cons, ← List.sum_map_mul_left]
    simp [Function.comp_def, shift]

/-- The low bytes of a value, by their place (spec/20_memory.md R66). -/
theorem leBytes_eq_map (n v : Nat) : leBytes n v = (List.range n).map fun k => BitVec.ofNat 8 (v / 256 ^ k) := by
  induction n generalizing v with
  | zero => rfl
  | succ n ih =>
    rw [leBytes, ih, List.range_succ_eq_map]
    simp [Function.comp_def, Nat.div_div_eq_div_mul, pow_succ']

/-- The state after the bytes `bs` were appended and counted, at one sample of `SNK_OK` each. -/
def appended (bs : List Byte) (s : State) : State :=
  { s with snk := s.snk ++ bs, outcnt := s.outcnt + BitVec.ofNat 64 bs.length, snkOkNext := s.snkOkNext.drop bs.length }

/-- The state in which the append after `bs` finds `SNK_OK = 0`: its sample is used too. -/
def appendedThenBad (bs : List Byte) (s : State) : State :=
  { appended bs s with snkOkNext := s.snkOkNext.drop (bs.length + 1) }

/-- After those appends the samples are counted on from there. -/
theorem snkSample_appended (bs : List Byte) (s : State) (k : Nat) :
    snkSample (appended bs s) k = snkSample s (bs.length + k) :=
  snkSample_drop (u := appended bs s) (n := bs.length) rfl rfl k

variable {bs : List Byte} {s : State}

theorem sinkBytes_ready (h : snkReady s bs.length) : sinkBytes bs s = .ok () (appended bs s) := by
  cases hr : sinkBytes bs s with
  | ok a t => rw [sinkBytes_ok bs s t a hr]; rfl
  | abort t =>
    obtain ⟨k, hk, hbad, -⟩ := sinkBytes_abort bs s t hr
    exact absurd (hbad.symm.trans (h k hk)) (by decide)
  | fault f => exact absurd hr (sinkBytes_ne_fault bs s f)

theorem sinkBytes_stops {k : Nat} (hk : k < bs.length) (h : snkReady s k) (hbad : snkSample s k = false) :
    sinkBytes bs s = .abort (takeAbort .sinkError .none (appendedThenBad (bs.take k) s)) := by
  have hlen : (bs.take k).length = k := List.length_take_of_le hk.le
  have hnow : snkSample (appended (bs.take k) s) 0 = false := by
    rw [snkSample_appended, hlen]
    exact hbad
  calc sinkBytes bs s
      = sinkBytes (bs.take k ++ bs[k] :: bs.drop (k + 1)) s := by rw [List.getElem_cons_drop, List.take_append_drop]
    _ = sinkBytes (bs[k] :: bs.drop (k + 1)) (appended (bs.take k) s) := by
        rw [sinkBytes_append, sinkBytes_ready (by rwa [hlen]), andThen_ok]
    _ = .abort (takeAbort .sinkError .none (appendedThenBad (bs.take k) s)) := by
        rw [sinkBytes_cons, if_pos hnow, appendedThenBad, ← List.tail_drop]
        rfl

end Primitives

/-- Settles O30, by the three branches of MemRead. -/
theorem memReadCases : Obligations.MemReadCases := by
  refine fun s a n c => ⟨fun hbad => ?_, fun hok hlt => ?_, fun hok hle => ?_⟩
  · rw [memRead_eq, if_pos hbad]
    rfl
  · rw [memRead_eq, if_neg (by simp [hok]), if_pos hlt]
    rfl
  · rw [memRead_eq, if_neg (by simp [hok]), if_neg (not_lt.2 hle), leNat_readBytes]

/-- Settles O31: MemWrite appends `leBytes n v`. -/
theorem memWriteCases : Obligations.MemWriteCases := by
  refine fun s n v => ⟨fun h => ?_, fun k hk h hbad => ?_⟩
  · rw [memWrite, sinkBytes_ready (by rwa [length_leBytes]), appended, length_leBytes, leBytes_eq_map]
  · have hlen : ((leBytes n v).take k).length = k := by simp [hk.le]
    rw [memWrite, sinkBytes_stops (by rwa [length_leBytes]) h hbad, appendedThenBad, appended, hlen, leBytes_eq_map,
      ← List.map_take, List.take_range, Nat.min_eq_left hk.le]

/-! ## The abort -/

/-- Settles O41: the codes are as listed, and `takeAbort` writes no more than said. -/
theorem abortEffect : Obligations.AbortEffect :=
  ⟨rfl, rfl, fun s _ _ => ⟨Config.sinkAfterFailure s.draws, rfl⟩⟩

/-- A phase that ended in an abort, when the command had appended `bs` before it. -/
theorem aborted_next {i : Instr} {s u : State} {e : ErrKind} {c : SubCause} (bs : List Byte)
    (h : exec i s = .next (takeAbort e c u)) (hsnk : u.snk = s.snk ++ bs)
    (hcnt : u.outcnt.toNat = s.outcnt.toNat + bs.length) :
    ∃ t, exec i s = .next t ∧ t.err = errCode e ∧ t.subErr = subCode c ∧ abortedFrom s t :=
  ⟨_, h, rfl, rfl, abortedFrom_takeAbort e c s u bs hsnk hcnt⟩

/-! ## The choice of the operation -/

/-- The decoder reads the operation PHASE selects from the byte of PHASE. -/
theorem decode_phase (ph : BitVec 4) : decode .phase [BitVec.ofNat 8 ph.toNat] = .instr (decodePhase ph) [] := by
  revert ph
  decide

/-- The decoder reads a command from the low two bits of the value written. -/
theorem decode_cmd (v : Nat) : decode .cmd [BitVec.ofNat 8 v] = .instr (decodeCmd (cmdField v)) [] := by
  have low : cmdField (BitVec.ofNat 8 v).toNat = cmdField v :=
    BitVec.eq_of_toNat_eq (by simp only [cmdField, BitVec.toNat_ofNat]; omega)
  rw [decode, low]

/-- Settles O45: the decoder and `step` read the same operation. -/
theorem stepRunsDecoded : Obligations.StepRunsDecoded := by
  have selected {s : State} {i : Instr} (hd : decode .phase [BitVec.ofNat 8 s.phase.toNat] = .instr i []) : phaseOp s = i :=
    (Decoded.instr.inj ((decode_phase s.phase).symm.trans hd)).1
  refine ⟨fun s i h hd => ?_, fun s i rest h hd => ?_, fun s i rest h => ⟨fun hb hd => ?_, fun hb => step_wait_idle h hb⟩,
    fun s i v rest h hd => ?_⟩
  · exact selected hd ▸ step_nil h
  · exact selected hd ▸ step_engine h
  · exact selected hd ▸ step_wait_busy h hb
  · exact (Decoded.instr.inj ((decode_cmd v).symm.trans hd)).1 ▸ step_command h

end Sys2Proof.Proofs

namespace Sys2Proof.Proofs

open Sys2Proof.Machine Sys2Proof.Safety

/-! # The commands, and the phases that read the source byte by byte -/

/-! ## The commands -/

section Commands

variable {i j : Instr} {m : Mode} {s t : State}

/-- A command is ignored while BUSY and starts otherwise (spec/46_commands_fsm.md R231, R233, R234). -/
theorem exec_command (hc : commandStart i = some (m, j)) :
    exec i s = if busy s then .next s else finish (startCommand m j s) := by
  cases i with
  | compress | decompress => cases hc; rfl
  | _ => cases hc

/-- The state of a command that aborts when it is accepted: it has appended nothing, so all the sink held stays. -/
def rejected (m : Mode) (c : SubCause) (s : State) : State :=
  { s with
    err := errCode .sourceUnavailable, subErr := subCode c, countIn := 0, countOut := 0, outcnt := 0, mode := m,
    phase := phaseCode .error, srcOkNext := s.srcOkNext.tail, snk := s.snk ++ Config.sinkAfterFailure s.draws,
    draws := s.draws + 1 }

theorem takeAbort_accept (m : Mode) (c : SubCause) (s : State) :
    takeAbort .sourceUnavailable c { accept m s with srcOkNext := s.srcOkNext.tail } = rejected m c s := by
  have whole : s.snk.take (s.snk.length - 0) = s.snk := List.take_length
  rw [rejected, ← congrArg (· ++ Config.sinkAfterFailure s.draws) whole]
  rfl

/-- The two reasons to reject a command, `SRC_OK` first (spec/60_exceptions.md R258 (a)). -/
theorem exec_command_rejected (hc : commandStart i = some (m, j)) (hb : busy s = false)
    (h : srcSample s 0 = false ∨ s.cfg.srcCap.toNat < s.srcLen.toNat) :
    exec i s = .next (rejected m (if srcSample s 0 = false then .none else .tooLong) s) := by
  rw [exec_command hc, hb, startCommand_eq, ← takeAbort_accept]
  by_cases hs : srcSample s 0 = false
  · simp only [hs, if_true]
    rfl
  · simp only [hs, h.resolve_left hs, if_true]
    rfl

/-- All that a next state of a command can be. -/
theorem exec_command_cases (hc : commandStart i = some (m, j)) (h : exec i s = .next t) :
    t = s ∨ t = toPhase j { accept m s with srcOkNext := s.srcOkNext.tail } ∨ ∃ c, t = rejected m c s := by
  rw [exec_command hc, startCommand_eq] at h
  split at h
  · cases h
    exact .inl rfl
  · refine .inr ?_
    split at h
    · cases h
      exact .inr ⟨_, takeAbort_accept m _ s⟩
    · split at h
      · cases h
        exact .inr ⟨_, takeAbort_accept m _ s⟩
      · cases h
        exact .inl rfl

/-- The mode and the first phase of the two commands, in one form. -/
theorem commandStart_cases (hi : i = .compress ∨ i = .decompress) :
    ∃ j, commandStart i = some (if i = .compress then Mode.compress else Mode.decompress, j) := by
  rcases hi with rfl | rfl <;> exact ⟨_, rfl⟩

end Commands

/-- Settles O5, by the state of a rejected command. -/
theorem startFailures : Obligations.StartFailures := by
  intro s i hi hb hfail
  obtain ⟨j, hc⟩ := commandStart_cases hi
  refine ⟨_, exec_command_rejected hc hb hfail, rfl, rfl, ?_, rfl, rfl, Config.sinkAfterFailure s.draws, rfl⟩
  rw [rejected]
  split <;> rfl

/-- Settles O48, by the three ways a command can end. -/
theorem frameCommands : Obligations.FrameCommands := by
  intro s t i hi h
  obtain ⟨j, hc⟩ := commandStart_cases hi
  obtain rfl | rfl | ⟨c, rfl⟩ := exec_command_cases hc h
  · exact ⟨rfl, fun _ => ⟨rfl, rfl⟩, .inl ⟨rfl, rfl⟩⟩
  · exact ⟨rfl, fun _ => ⟨rfl, rfl⟩, .inl ⟨rfl, rfl⟩⟩
  · exact ⟨rfl, fun _ => ⟨rfl, rfl⟩, .inr ⟨rfl, Config.sinkAfterFailure s.draws, rfl⟩⟩

/-! ## Loops over the source

HIST and PACK are one loop, `scan`, with two bodies: read the byte at IDX, and do the body's update. -/

section Scan

/-- `n` micro-steps that read the byte at IDX and do `body`. -/
def scan (body : Byte → State → Res Unit) : Nat → State → Res Unit
  | 0, s => .ok () s
  | n + 1, s => andThen (srcRead s.idx.toNat s) fun b s1 => andThen (body b s1) fun _ s2 => scan body n s2

theorem histLoop_eq_scan (n : Nat) (s : State) : histLoop n s = scan (fun b v => .ok () (histCount b v)) n s := by
  induction n generalizing s with
  | zero => rfl
  | succ n ih => simp only [histLoop, scan, ih, andThen_ok]

theorem packLoop_eq_scan (n : Nat) (s : State) : packLoop n s = scan packByte n s := by
  induction n generalizing s with
  | zero => rfl
  | succ n ih => simp only [packLoop, scan, ih]

/-- The state after the bytes `bs` were read, at one sample each, and `f` was done for each of them. -/
def scanned (f : Byte → State → State) : List Byte → State → State
  | [], s => s
  | b :: bs, s => scanned f bs (f b { s with srcOkNext := s.srcOkNext.tail })

/-- What a loop over the source needs of its body: on a good byte it does the update `f`, which moves IDX on and leaves alone what
the loop reads. -/
structure Scans (body : Byte → State → Res Unit) (f : Byte → State → State) (ct : Vector CodeEntry 256)
    (good : Byte → Prop) : Prop where
  does : ∀ b v, v.ct = ct → good b → body b v = .ok () (f b v)
  idx : ∀ b v, (f b v).idx = v.idx + 1
  keeps : ∀ b v, (f b v).ct = v.ct ∧ (f b v).src = v.src ∧ (f b v).srcLen = v.srcLen ∧ (f b v).srcOk = v.srcOk ∧
    (f b v).srcOkNext = v.srcOkNext

variable {body : Byte → State → Res Unit} {f : Byte → State → State} {ct : Vector CodeEntry 256} {good : Byte → Prop}
  {u : State}

theorem Scans.scanned_keeps (h : Scans body f ct good) (bs : List Byte) (u : State) :
    (scanned f bs u).ct = u.ct ∧ (scanned f bs u).src = u.src ∧ (scanned f bs u).srcLen = u.srcLen ∧
    (scanned f bs u).srcOk = u.srcOk ∧ (scanned f bs u).srcOkNext = u.srcOkNext.drop bs.length ∧
    (scanned f bs u).idx = u.idx + BitVec.ofNat 64 bs.length := by
  induction bs generalizing u with
  | nil => simp [scanned]
  | cons b bs ih =>
    obtain ⟨hct, hsrc, hlen, hok, hnext, hidx⟩ := ih (f b { u with srcOkNext := u.srcOkNext.tail })
    obtain ⟨kct, ksrc, klen, kok, knext⟩ := h.keeps b { u with srcOkNext := u.srcOkNext.tail }
    refine ⟨hct.trans kct, hsrc.trans ksrc, hlen.trans klen, hok.trans kok, ?_, ?_⟩
    · rw [scanned, hnext, knext, List.drop_tail, List.length_cons]
    · rw [scanned, hidx, h.idx, List.length_cons]
      exact count_succ u.idx bs.length

/-- A micro-step whose read finds `SRC_OK = 1`. -/
theorem scan_goodSample (body : Byte → State → Res Unit) (n : Nat) (hok : srcSample u 0 = true)
    (hlt : u.idx.toNat < u.srcLen.toNat) :
    scan body (n + 1) u = andThen (body (readByte u.src u.idx.toNat) { u with srcOkNext := u.srcOkNext.tail })
      fun _ v => scan body n v := by
  rw [scan, srcRead_eq, if_neg (by simp [hok]), if_neg (not_lt.2 hlt), andThen_ok]

/-- The micro-step whose read finds `SRC_OK = 0`. -/
theorem scan_badSample (body : Byte → State → Res Unit) (n : Nat) (hbad : srcSample u 0 = false) :
    scan body (n + 1) u = .abort (takeAbort .sourceUnavailable .none { u with srcOkNext := u.srcOkNext.tail }) := by
  rw [scan, srcRead_eq, if_pos hbad]
  rfl

/-- The first `k` micro-steps, when their samples are 1 and their bytes are good. -/
theorem Scans.ready (h : Scans body f ct good) (n : Nat) {k : Nat} (hct : u.ct = ct) (hready : srcReady u k)
    (hlen : u.idx.toNat + k ≤ u.srcLen.toNat) (hgood : ∀ j < k, good (readByte u.src (u.idx.toNat + j))) :
    scan body (k + n) u = scan body n (scanned f (readBytes u.src u.idx.toNat k) u) := by
  induction k generalizing u with
  | zero => rw [Nat.zero_add]; rfl
  | succ k ih =>
    let b := readByte u.src u.idx.toNat
    let v := f b { u with srcOkNext := u.srcOkNext.tail }
    obtain ⟨kct, ksrc, klen, kok, knext⟩ : v.ct = u.ct ∧ v.src = u.src ∧ v.srcLen = u.srcLen ∧ v.srcOk = u.srcOk ∧
      v.srcOkNext = u.srcOkNext.tail := h.keeps b _
    have hlt : u.idx.toNat < u.srcLen.toNat := by omega
    have hidx : v.idx.toNat = u.idx.toNat + 1 :=
      (congrArg BitVec.toNat (h.idx b _)).trans (cursor_succ hlt)
    have first : scan body (k + 1 + n) u = scan body (k + n) v := by
      have does : body b { u with srcOkNext := u.srcOkNext.tail } = .ok () v := h.does b _ hct (hgood 0 k.succ_pos)
      rw [Nat.add_right_comm, scan_goodSample _ _ (hready 0 k.succ_pos) hlt, does, andThen_ok]
    have rest : ∀ j < k, srcSample v j = true ∧ good (readByte v.src (v.idx.toNat + j)) := by
      intro j hj
      refine ⟨?_, ?_⟩
      · rw [srcSample_drop (s := u) (n := 1) (by rw [knext, List.drop_one]) kok, Nat.add_comm]
        exact hready (j + 1) (by omega)
      · rw [ksrc, hidx, Nat.add_assoc, Nat.add_comm 1]
        exact hgood (j + 1) (by omega)
    rw [first, ih (kct.trans hct) (fun j hj => (rest j hj).1) (by rw [hidx, klen]; omega) (fun j hj => (rest j hj).2), hidx, ksrc]
    rfl

/-- The loop at the first read that finds `SRC_OK = 0`. -/
theorem Scans.stops (h : Scans body f ct good) {n k : Nat} (hk : k < n) (hct : u.ct = ct) (hready : srcReady u k)
    (hlen : u.idx.toNat + k ≤ u.srcLen.toNat) (hgood : ∀ j < k, good (readByte u.src (u.idx.toNat + j)))
    (hbad : srcSample u k = false) :
    scan body n u = .abort (takeAbort .sourceUnavailable .none
      { scanned f (readBytes u.src u.idx.toNat k) u with srcOkNext := u.srcOkNext.drop (k + 1) }) := by
  obtain ⟨n, rfl⟩ : ∃ n', n = k + (n' + 1) := ⟨n - k - 1, by omega⟩
  obtain ⟨-, -, -, hok, hnext, -⟩ := h.scanned_keeps (readBytes u.src u.idx.toNat k) u
  rw [length_readBytes] at hnext
  rw [h.ready _ hct hready hlen hgood, scan_badSample _ _ (by rwa [srcSample_drop hnext hok]), hnext, List.tail_drop]

end Scan

/-! ## HIST -/

section Hist

variable {s t : State}

theorem hist_scans (ct : Vector CodeEntry 256) :
    Scans (fun b v => .ok () (histCount b v)) histCount ct (fun _ => True) where
  does _ _ _ _ := rfl
  idx _ _ := rfl
  keeps _ _ := ⟨rfl, rfl, rfl, rfl, rfl⟩

/-- The state in which HIST begins its loop. -/
abbrev histStart (s : State) : State := { histClr s with idx := 0 }

/-- HIST when every read finds `SRC_OK = 1`. -/
theorem exec_hist_ready (h : srcReady s s.srcLen.toNat) :
    exec .hist s = .next (toPhase .leaves (scanned histCount (sourceBytes s) (histStart s))) := by
  have loop := (hist_scans s.ct).ready (u := histStart s) 0 rfl h (by simp) (fun _ _ => trivial)
  rw [exec, execHist, histLoop_eq_scan]
  exact congrArg (fun r => finish (andThen r fun _ v => .ok () (toPhase .leaves v))) loop

/-- HIST when sample `k` is the first that is 0. -/
theorem exec_hist_stops {k : Nat} (hk : k < s.srcLen.toNat) (h : srcReady s k) (hbad : srcSample s k = false) :
    exec .hist s = .next (takeAbort .sourceUnavailable .none
      { scanned histCount (readBytes s.src 0 k) (histStart s) with srcOkNext := s.srcOkNext.drop (k + 1) }) := by
  have loop := (hist_scans s.ct).stops (u := histStart s) hk rfl h (by simp [hk.le]) (fun _ _ => trivial) hbad
  rw [exec, execHist, histLoop_eq_scan]
  exact congrArg (fun r => finish (andThen r fun _ v => .ok () (toPhase .leaves v))) loop

theorem ftGet_histCount (b c : Byte) (s : State) : ftGet (histCount b s) c = ftGet s c + if b = c then 1 else 0 := by
  have h : ftGet (histCount b s) c = ftGet (ftSet b (ftGet s b + 1) s) c := rfl
  rw [h, ftGet_ftSet]
  split
  · next hbc => rw [hbc]
  · simp

/-- The loop of HIST adds to each entry how often its byte was read. -/
theorem ftGet_scanned_histCount (bs : List Byte) (u : State) (c : Byte) :
    ftGet (scanned histCount bs u) c = ftGet u c + BitVec.ofNat 64 (bs.count c) := by
  induction bs generalizing u with
  | nil => simp [scanned]
  | cons b bs ih =>
    have first : ftGet (histCount b { u with srcOkNext := u.srcOkNext.tail }) c = ftGet u c + if b = c then 1 else 0 :=
      ftGet_histCount b c { u with srcOkNext := u.srcOkNext.tail }
    rw [scanned, ih, first, List.count_cons, Nat.add_comm (List.count c bs), BitVec.ofNat_add, BitVec.add_assoc]
    by_cases hbc : b = c <;> simp [hbc]

theorem ftGet_histStart (s : State) (b : Byte) : ftGet (histStart s) b = 0 := by
  simp [ftGet]

/-- What the loop of HIST may change. -/
theorem scanned_histCount_frame (bs : List Byte) (u : State) :
    ∃ ft idx next, scanned histCount bs u = { u with ft := ft, idx := idx, srcOkNext := next } := by
  induction bs generalizing u with
  | nil => exact ⟨_, _, _, rfl⟩
  | cons b bs ih => exact ih (histCount b { u with srcOkNext := u.srcOkNext.tail })

/-- All that a next state of HIST can be. -/
theorem exec_hist_cases (h : exec .hist s = .next t) : ∃ ft idx next,
    t = toPhase .leaves { s with ft := ft, idx := idx, srcOkNext := next } ∨
    t = takeAbort .sourceUnavailable .none { s with ft := ft, idx := idx, srcOkNext := next } := by
  obtain hready | ⟨k, hk, hready, hbad⟩ := ready_or_firstBad (srcSample s) s.srcLen.toNat
  · obtain rfl := Host.Outcome.next.inj ((exec_hist_ready hready).symm.trans h)
    obtain ⟨ft, idx, next, hframe⟩ := scanned_histCount_frame (sourceBytes s) (histStart s)
    exact ⟨ft, idx, next, .inl (by rw [hframe]; rfl)⟩
  · obtain rfl := Host.Outcome.next.inj ((exec_hist_stops hk hready hbad).symm.trans h)
    obtain ⟨ft, idx, next, hframe⟩ := scanned_histCount_frame (readBytes s.src 0 k) (histStart s)
    exact ⟨ft, idx, s.srcOkNext.drop (k + 1), .inr (by rw [hframe]; rfl)⟩

end Hist

/-- Settles O8: the loop of HIST up to its first bad read. -/
theorem histStopsAtBadSample : Obligations.HistStopsAtBadSample := by
  intro s k hk hready hbad
  obtain ⟨ft, idx, next, hframe⟩ := scanned_histCount_frame (readBytes s.src 0 k) (histStart s)
  obtain ⟨-, -, -, -, -, hidx⟩ := (hist_scans s.ct).scanned_keeps (readBytes s.src 0 k) (histStart s)
  refine ⟨_, exec_hist_stops hk hready hbad, rfl, rfl, ?_, ?_, fun b => ?_⟩
  · refine abortedFrom_takeAbort _ _ _ _ [] ?_ ?_ <;> simp [hframe]
  · have hlt := hk.trans s.srcLen.isLt
    simp only [takeAbort_keeps, hidx, length_readBytes]
    simp [Nat.mod_eq_of_lt hlt]
  · refine (ftGet_scanned_histCount (readBytes s.src 0 k) (histStart s) b).trans ?_
    rw [ftGet_histStart]
    exact BitVec.zero_add _

end Sys2Proof.Proofs

namespace Sys2Proof.Proofs

open Sys2Proof.Machine Sys2Proof.Safety

/-! # The bit packer and PACK -/

/-! ## What putting bits does -/

section Packer

variable {s u w : State} {vs ws : List Bool}

theorem shiftIn_getLsbD (acc : BitVec 8) (v : Bool) (i : Nat) :
    (shiftIn acc v).getLsbD i = if i = 0 then v else (decide (i - 1 < 7) && acc.getLsbD (i - 1)) := by
  rw [shiftIn, BitVec.getLsbD_concat]
  split
  · rfl
  · rw [BitVec.getLsbD_setWidth]

/-- `u` is what `s` became when the bits `vs` were put into the packer: they follow the bits it held, and the bytes they completed were
stored
at PLEN and after it, in places below the new PLEN (spec/43_bit_packer.md R177, R181). -/
structure Packs (vs : List Bool) (s u : State) : Prop where
  bits : packedBits u = packedBits s ++ vs
  grows : s.plen.toNat ≤ u.plen.toNat
  bound : u.plen.toNat ≤ s.plen.toNat + vs.length
  beyond : ∀ a, u.plen.toNat ≤ a → readByte u.pbuf a = readByte s.pbuf a

theorem Packs.refl (s : State) : Packs [] s s :=
  ⟨(List.append_nil _).symm, le_rfl, le_rfl, fun _ _ => rfl⟩

theorem Packs.trans (h : Packs vs s u) (h' : Packs ws u w) : Packs (vs ++ ws) s w where
  bits := by rw [h'.bits, h.bits, List.append_assoc]
  grows := h.grows.trans h'.grows
  bound := by have := h.bound; have := h'.bound; rw [List.length_append]; omega
  beyond a ha := (h'.beyond a ha).trans (h.beyond a (h'.grows.trans ha))

/-- To put one bit is to add one bit to the end, when the bits before it stay where they were. -/
theorem packedBits_snoc {v : Bool} (hlen : 8 * u.plen.toNat + u.nb.toNat = 8 * s.plen.toNat + s.nb.toNat + 1)
    (hold : ∀ p < 8 * s.plen.toNat + s.nb.toNat, packedBit u p = packedBit s p)
    (hnew : packedBit u (8 * s.plen.toNat + s.nb.toNat) = v) : packedBits u = packedBits s ++ [v] := by
  rw [packedBits, hlen, List.range_succ, List.map_append, List.map_singleton, hnew, packedBits]
  congr 1
  exact List.map_congr_left fun p hp => hold p (List.mem_range.1 hp)

/-- The eighth bit completes a byte, which is stored at PLEN. -/
theorem putBit_packs_full (v : Bool) (hnb : s.nb = 7) (h : s.plen.toNat + 1 < 2 ^ 64) : Packs [v] s (putBit v s) := by
  have hput : putBit v s =
      { s with pbuf := writeByte s.pbuf s.plen.toNat (shiftIn s.acc v), plen := s.plen + 1, nb := 0, acc := 0 } := if_pos hnb
  have h7 : s.nb.toNat = 7 := congrArg BitVec.toNat hnb
  have h0 : (0 : BitVec 3).toNat = 0 := rfl
  have hplen : (s.plen + 1).toNat = s.plen.toNat + 1 := BitVec.toNat_add_of_lt (y := 1) h
  rw [hput]
  refine ⟨packedBits_snoc ?_ (fun p hp => ?_) ?_, ?_, hplen.le, fun a ha => ?_⟩
  · simp only [hplen, h7, h0]
    omega
  · simp only [packedBit, hplen, readByte_writeByte, h7] at hp ⊢
    by_cases hp8 : p / 8 < s.plen.toNat
    · rw [if_pos (by omega), if_neg (by omega), if_pos hp8]
    · rw [if_pos (by omega), if_pos (by omega), if_neg hp8, shiftIn_getLsbD, if_neg (by omega), decide_eq_true (by omega),
        Bool.true_and]
      congr 1
      omega
  · simp only [packedBit, hplen, readByte_writeByte, h7]
    rw [if_pos (by omega), if_pos (by omega), shiftIn_getLsbD, if_pos (by omega)]
  · simp only [hplen]
    omega
  · simp only [hplen, readByte_writeByte] at ha ⊢
    rw [if_neg (by omega)]

/-- An earlier bit is collected in ACC. -/
theorem putBit_packs_part (v : Bool) (hnb : s.nb ≠ 7) : Packs [v] s (putBit v s) := by
  have hput : putBit v s = { s with acc := shiftIn s.acc v, nb := s.nb + 1 } := if_neg hnb
  have hlt : s.nb.toNat + 1 < 2 ^ 3 := by
    have hne : s.nb.toNat ≠ 7 := fun h7 => hnb (BitVec.eq_of_toNat_eq h7)
    omega
  have hnb1 : (s.nb + 1).toNat = s.nb.toNat + 1 := BitVec.toNat_add_of_lt (y := 1) hlt
  rw [hput]
  refine ⟨packedBits_snoc ?_ (fun p hp => ?_) ?_, le_rfl, Nat.le_succ _, fun a _ => rfl⟩
  · simp only [hnb1]
    omega
  · simp only [packedBit, hnb1]
    by_cases hp8 : p / 8 < s.plen.toNat
    · rw [if_pos hp8, if_pos hp8]
    · rw [if_neg hp8, if_neg hp8, shiftIn_getLsbD, if_neg (by omega), decide_eq_true (by omega), Bool.true_and]
      congr 1
      omega
  · simp only [packedBit, hnb1]
    rw [if_neg (by omega), shiftIn_getLsbD, if_pos (by omega)]

theorem putBit_packs (v : Bool) (h : s.plen.toNat + 1 < 2 ^ 64) : Packs [v] s (putBit v s) := by
  by_cases hnb : s.nb = 7
  · exact putBit_packs_full v hnb h
  · exact putBit_packs_part v hnb

/-- Bits put one after the other; `PLEN` does not wrap (spec/43_bit_packer.md R181). -/
theorem putBits_packs (vs : List Bool) (h : s.plen.toNat + vs.length < 2 ^ 64) : Packs vs s (putBits vs s) := by
  induction vs generalizing s with
  | nil => exact .refl s
  | cons v vs ih =>
    rw [List.length_cons] at h
    have first : Packs [v] s (putBit v s) := putBit_packs v (by omega)
    have hbound : (putBit v s).plen.toNat ≤ s.plen.toNat + 1 := first.bound
    exact first.trans (ih (by omega))

/-- What putting bits may change. -/
theorem putBits_frame (vs : List Bool) (s : State) :
    ∃ acc nb pbuf plen, putBits vs s = { s with acc := acc, nb := nb, pbuf := pbuf, plen := plen } := by
  induction vs generalizing s with
  | nil => exact ⟨_, _, _, _, rfl⟩
  | cons v vs ih =>
    obtain ⟨acc, nb, pbuf, plen, h⟩ := ih (putBit v s)
    refine ⟨acc, nb, pbuf, plen, ?_⟩
    rw [putBits, h]
    unfold putBit
    dsimp only
    split <;> rfl

theorem length_symbolsFrom (bits : BitVec 255) (n : Nat) : (symbolsFrom bits n).length = n := by
  induction n with
  | zero => rfl
  | succ n ih => rw [symbolsFrom, List.length_cons, ih]

/-- A code has at most 255 symbols (spec/10_state.md R37). -/
theorem length_codeString_le (e : CodeEntry) : (codeString e).length ≤ 255 := by
  have := e.len.isLt
  rw [codeString, length_symbolsFrom]
  omega

end Packer

/-! ## The loop of PACK -/

section PackLoop

variable {s t u : State}

/-- The update of one micro-step of PACK. -/
def packedByte (b : Byte) (s : State) : State :=
  { putCode (ctGet s b) s with idx := (putCode (ctGet s b) s).idx + 1 }

theorem packedByte_frame (b : Byte) (s : State) : ∃ acc nb bitcnt pbuf plen,
    packedByte b s = { s with acc := acc, nb := nb, bitcnt := bitcnt, pbuf := pbuf, plen := plen, idx := s.idx + 1 } := by
  obtain ⟨acc, nb, pbuf, plen, h⟩ := putBits_frame (codeString (ctGet s b)) s
  exact ⟨acc, nb, s.bitcnt + (ctGet s b).len.setWidth 64, pbuf, plen, by rw [packedByte, putCode, h]⟩

theorem packByte_of_hasCode {b : Byte} (h : hasCode s b = true) : packByte b s = .ok () (packedByte b s) :=
  if_pos h

theorem packByte_of_noCode {b : Byte} (h : hasCode s b = false) : packByte b s = .fault .packNoCode :=
  if_neg (by rw [← Bool.not_eq_true] at h; exact h)

/-- Whether a byte has a code depends on the code table alone. -/
theorem hasCode_congr (h : u.ct = s.ct) (b : Byte) : hasCode u b = hasCode s b := by
  simp only [hasCode, ctGet, h]

theorem pack_scans (s : State) : Scans packByte packedByte s.ct (fun b => hasCode s b = true) where
  does b v hct hgood := packByte_of_hasCode ((hasCode_congr hct b).trans hgood)
  idx b v := by
    obtain ⟨acc, nb, bitcnt, pbuf, plen, h⟩ := packedByte_frame b v
    rw [h]
  keeps b v := by
    obtain ⟨acc, nb, bitcnt, pbuf, plen, h⟩ := packedByte_frame b v
    rw [h]
    exact ⟨rfl, rfl, rfl, rfl, rfl⟩

/-- The loop of PACK puts the codes of the bytes it reads (spec/43_bit_packer.md R178, R179). -/
theorem scanned_packedByte_packs (bs : List Byte) (u : State) (h : u.plen.toNat + 255 * bs.length < 2 ^ 64) :
    Packs (codedBits u bs) u (scanned packedByte bs u) ∧
      (scanned packedByte bs u).plen.toNat ≤ u.plen.toNat + 255 * bs.length := by
  induction bs generalizing u with
  | nil => exact ⟨.refl u, le_rfl⟩
  | cons b bs ih =>
    rw [List.length_cons] at h
    let v := packedByte b { u with srcOkNext := u.srcOkNext.tail }
    have hcode := length_codeString_le (ctGet u b)
    have put : Packs (codeString (ctGet u b)) { u with srcOkNext := u.srcOkNext.tail } _ :=
      putBits_packs _ (show u.plen.toNat + (codeString (ctGet u b)).length < 2 ^ 64 by omega)
    have first : Packs (codeString (ctGet u b)) u v := ⟨put.bits, put.grows, put.bound, put.beyond⟩
    have hbound := first.bound
    obtain ⟨hrest, hplen⟩ := ih v (by omega)
    have hct : v.ct = u.ct := ((pack_scans u).keeps b _).1
    have hcodes : codedBits v bs = codedBits u bs := by simp only [codedBits, ctGet, hct]
    rw [hcodes] at hrest
    refine ⟨first.trans hrest, hplen.trans ?_⟩
    rw [List.length_cons]
    omega

/-- What the loop of PACK may change. -/
theorem scanned_packedByte_frame (bs : List Byte) (u : State) : ∃ acc nb bitcnt pbuf plen idx next,
    scanned packedByte bs u = { u with
      acc := acc, nb := nb, bitcnt := bitcnt, pbuf := pbuf, plen := plen, idx := idx, srcOkNext := next } := by
  induction bs generalizing u with
  | nil => exact ⟨_, _, _, _, _, _, _, rfl⟩
  | cons b bs ih =>
    obtain ⟨acc, nb, bitcnt, pbuf, plen, idx, next, h⟩ := ih (packedByte b { u with srcOkNext := u.srcOkNext.tail })
    obtain ⟨acc', nb', bitcnt', pbuf', plen', h'⟩ := packedByte_frame b { u with srcOkNext := u.srcOkNext.tail }
    exact ⟨acc, nb, bitcnt, pbuf, plen, idx, next, by rw [scanned, h, h']⟩

end PackLoop

/-! ## PACK -/

section Pack

variable {s t : State} {k : Nat}

/-- The state in which PACK begins its loop. -/
abbrev packStart (s : State) : State := { bpInit s with idx := 0 }

/-- The state after PACK packed the first `k` bytes of the source. -/
abbrev packedTo (k : Nat) (s : State) : State := scanned packedByte (readBytes s.src 0 k) (packStart s)

/-- The first `k` reads of PACK find `SRC_OK = 1` and bytes with a code. -/
abbrev packReady (s : State) (k : Nat) : Prop := srcReady s k ∧ ∀ j < k, hasCode s (readByte s.src j) = true

theorem packStart_ready (h : ∀ j < k, hasCode s (readByte s.src j) = true) :
    ∀ j < k, hasCode s (readByte (packStart s).src ((packStart s).idx.toNat + j)) = true := by
  simpa using h

theorem exec_pack (s : State) :
    exec .pack s = finish (andThen (scan packByte s.srcLen.toNat (packStart s)) fun _ v => .ok () (toPhase .flush v)) := by
  rw [exec, execPack, packLoop_eq_scan]

/-- PACK when every read finds `SRC_OK = 1` and every byte has a code. -/
theorem exec_pack_ready (h : packReady s s.srcLen.toNat) :
    exec .pack s = .next (toPhase .flush (packedTo s.srcLen.toNat s)) := by
  have loop := (pack_scans s).ready (u := packStart s) 0 rfl h.1 (by simp) (packStart_ready h.2)
  rw [exec_pack]
  exact congrArg (fun r => finish (andThen r fun _ v => .ok () (toPhase .flush v))) loop

/-- PACK when the read at `k` is the first that finds `SRC_OK = 0`, and every byte before has a code. -/
theorem exec_pack_stops (hk : k < s.srcLen.toNat) (h : packReady s k) (hbad : srcSample s k = false) :
    exec .pack s = .next (takeAbort .sourceUnavailable .none
      { packedTo k s with srcOkNext := s.srcOkNext.drop (k + 1) }) := by
  have loop := (pack_scans s).stops (u := packStart s) hk rfl h.1 (by simp [hk.le]) (packStart_ready h.2) hbad
  rw [exec_pack]
  exact congrArg (fun r => finish (andThen r fun _ v => .ok () (toPhase .flush v))) loop

/-- PACK when the byte at `k` is the first with no code, and every read so far finds `SRC_OK = 1`. -/
theorem exec_pack_noCode (hk : k < s.srcLen.toNat) (h : packReady s k) (hok : srcSample s k = true)
    (hno : hasCode s (readByte s.src k) = false) : exec .pack s = .fault .packNoCode := by
  obtain ⟨n, hn⟩ : ∃ n, s.srcLen.toNat = k + (n + 1) := ⟨s.srcLen.toNat - k - 1, by omega⟩
  have loop := (pack_scans s).ready (u := packStart s) (n + 1) rfl h.1 (by simp [hk.le]) (packStart_ready h.2)
  obtain ⟨hct, hsrc, hlen, hlevel, hnext, hidx⟩ := (pack_scans s).scanned_keeps (readBytes s.src 0 k) (packStart s)
  rw [length_readBytes] at hnext hidx
  have hat : (packedTo k s).idx.toNat = k := by
    rw [hidx]
    simp [Nat.mod_eq_of_lt (hk.trans s.srcLen.isLt)]
  have hnow : srcSample (packedTo k s) 0 = true := (srcSample_drop hnext hlevel 0).trans hok
  have step : scan packByte (n + 1) (packedTo k s) = .fault .packNoCode := by
    rw [scan_goodSample _ _ hnow (by rw [hat, hlen]; exact hk), hat, hsrc, packByte_of_noCode, andThen_fault]
    exact (hasCode_congr hct _).trans hno
  rw [exec_pack, hn]
  exact congrArg (fun r => finish (andThen r fun _ v => .ok () (toPhase .flush v))) (loop.trans step)

/-- What PACK has put into the packer after `k` bytes, of a source within its capacity. -/
theorem packedTo_packs (hk : k ≤ s.srcLen.toNat) (hcap : s.srcLen.toNat ≤ s.cfg.srcCap.toNat) :
    Packs (codedBits s (readBytes s.src 0 k)) (packStart s) (packedTo k s) := by
  have hlt := s.cfg.srcCap.isLt
  refine (scanned_packedByte_packs (readBytes s.src 0 k) (packStart s) ?_).1
  have h0 : (packStart s).plen.toNat = 0 := rfl
  rw [length_readBytes, h0]
  omega

/-- All that a next state of PACK can be. -/
theorem exec_pack_cases (h : exec .pack s = .next t) : ∃ k ≤ s.srcLen.toNat,
    t = toPhase .flush (packedTo k s) ∨
    t = takeAbort .sourceUnavailable .none { packedTo k s with srcOkNext := s.srcOkNext.drop (k + 1) } := by
  obtain hready | ⟨k, hk, hready, hstop⟩ :=
    ready_or_firstBad (fun k => srcSample s k && hasCode s (readByte s.src k)) s.srcLen.toNat
  · simp only [Bool.and_eq_true] at hready
    have ready : packReady s s.srcLen.toNat := ⟨fun j hj => (hready j hj).1, fun j hj => (hready j hj).2⟩
    exact ⟨_, le_rfl, .inl (Host.Outcome.next.inj (h.symm.trans (exec_pack_ready ready)))⟩
  · simp only [Bool.and_eq_true] at hready
    have ready : packReady s k := ⟨fun j hj => (hready j hj).1, fun j hj => (hready j hj).2⟩
    refine ⟨k, hk.le, .inr ?_⟩
    cases hs : srcSample s k with
    | false => exact Host.Outcome.next.inj (h.symm.trans (exec_pack_stops hk ready hs))
    | true =>
      have hno : hasCode s (readByte s.src k) = false := by simpa [hs] using hstop
      exact absurd (h.symm.trans (exec_pack_noCode hk ready hs hno)) (by simp)

end Pack

/-- Settles O23, by the loop of PACK up to its first bad read or its first byte with no code. -/
theorem packStopsWithoutCode : Obligations.PackStopsWithoutCode := by
  intro s k hk hready hcodes
  refine ⟨fun hok hno => exec_pack_noCode hk ⟨hready, hcodes⟩ hok hno, fun hbad hcap => ?_⟩
  obtain ⟨acc, nb, bitcnt, pbuf, plen, idx, next, hframe⟩ := scanned_packedByte_frame (readBytes s.src 0 k) (packStart s)
  obtain ⟨-, -, -, -, -, hidx⟩ := (pack_scans s).scanned_keeps (readBytes s.src 0 k) (packStart s)
  refine ⟨_, exec_pack_stops hk ⟨hready, hcodes⟩ hbad, rfl, rfl, ?_, ?_, (packedTo_packs hk.le hcap).bits⟩
  · refine abortedFrom_takeAbort _ _ _ _ [] ?_ ?_ <;> simp [hframe]
  · have hlt := hk.trans s.srcLen.isLt
    simp only [takeAbort_keeps, hidx, length_readBytes]
    simp [Nat.mod_eq_of_lt hlt]

/-- Settles O51: the stores of the loop of PACK lie below the PLEN it leaves. -/
theorem framePack : Obligations.FramePack := by
  intro s t hcap h
  obtain ⟨k, hk, ht⟩ := exec_pack_cases h
  have beyond := (packedTo_packs hk hcap).beyond
  obtain ⟨acc, nb, bitcnt, pbuf, plen, idx, next, hframe⟩ := scanned_packedByte_frame (readBytes s.src 0 k) (packStart s)
  rw [packedTo, hframe] at ht beyond
  obtain rfl | rfl := ht
  · exact ⟨rfl, fun _ => rfl, beyond, .inl ⟨rfl, rfl, rfl, rfl, rfl, rfl, rfl⟩⟩
  · exact ⟨rfl, fun _ => rfl, beyond, .inr ⟨List.mem_singleton_self _,
      abortedFrom_takeAbort _ _ _ _ [] (List.append_nil _).symm rfl⟩⟩

end Sys2Proof.Proofs

namespace Sys2Proof.Proofs

open Sys2Proof.Machine Sys2Proof.Safety

/-! # The phases that read the container's header, records and bit count -/

/-! ## Chains of pieces, with what an abort leaves -/

section Meets

variable {α β : Type} {P Q : State → Prop} {A : ErrKind → SubCause → State → Prop} {F : Prop} {s u : State}

/-- A piece ends in a state where `P` holds, or raises `Abort(e, c)` in a state where `A e c` holds, or faults, and then `F`. -/
def Meets (P : State → Prop) (A : ErrKind → SubCause → State → Prop) (F : Prop) : Res α → Prop
  | .ok _ u => P u
  | .abort t => ∃ e c u, A e c u ∧ t = takeAbort e c u
  | .fault _ => F

theorem Meets.bind {r : Res α} {k : α → State → Res β} (h : Meets P A F r) (hk : ∀ a v, P v → Meets Q A F (k a v)) :
    Meets Q A F (andThen r k) := by
  cases r with
  | ok a v => exact hk a v h
  | abort t => exact h
  | fault f => exact h

theorem meets_raise {e : ErrKind} {c : SubCause} (h : A e c u) : Meets P A F (raise e c u : Res α) :=
  ⟨e, c, u, h, rfl⟩

/-- The pairs an operation raises, as ERR and SUBERR show them. -/
def codePairs (i : Instr) : List (BitVec 2 × BitVec 4) := (abortCodes i).map fun p => (errCode p.1, subCode p.2)

/-- An abort with a pair of the operation, after the bytes `bs` were appended. -/
theorem abortedWithin_takeAbort {i : Instr} {e : ErrKind} {c : SubCause} (bs : List Byte) (hc : (e, c) ∈ abortCodes i)
    (hsnk : u.snk = s.snk ++ bs) (hcnt : u.outcnt.toNat = s.outcnt.toNat + bs.length) :
    abortedWithin (codePairs i) s (takeAbort e c u) :=
  ⟨List.mem_map_of_mem hc, abortedFrom_takeAbort e c s u bs hsnk hcnt⟩

/-- The same in a phase that appends nothing. -/
theorem abortedWithin_of_reader {i : Instr} {e : ErrKind} {c : SubCause} (hc : (e, c) ∈ abortCodes i)
    (hu : u.snk = s.snk ∧ u.outcnt = s.outcnt := by exact ⟨rfl, rfl⟩) : abortedWithin (codePairs i) s (takeAbort e c u) :=
  abortedWithin_takeAbort [] hc (by rw [hu.1, List.append_nil]) (by rw [hu.2]; rfl)

end Meets

/-- The state after one sample of `SRC_OK`. -/
abbrev sampled (s : State) : State := { s with srcOkNext := s.srcOkNext.tail }

theorem srcSample_sampled (s : State) (k : Nat) : srcSample (sampled s) k = srcSample s (k + 1) :=
  sampleAt_tail s.srcOkNext s.srcOk k

/-! ## DHDR -/

/-- The field `charCount` of the container in SRC (spec/45_container_codec.md R215). -/
abbrev charCount (s : State) : Nat := leNat (readBytes s.src 0 8)

/-- DHDR, in the order of its checks. -/
theorem exec_dhdr (s : State) : exec .dhdr s = .next (
    if srcSample s 0 = false then takeAbort .sourceUnavailable .none (sampled s)
    else if s.srcLen.toNat < 8 then takeAbort .formatError .truncHeader (sampled s)
    else if charCount s = 0 then enterDone 8 (sampled s)
    else if charCount s > 256 then takeAbort .formatError .badCount (sampled s)
    else toPhase .drecs { sampled s with nchar := BitVec.ofNat 9 (charCount s) }) := by
  rw [exec, execDhdr, memRead_eq, Nat.zero_add]
  split
  · rfl
  · split
    · rfl
    · rw [andThen_ok]
      split
      · rfl
      · split <;> rfl

/-- All that a next state of DHDR can be. -/
theorem exec_dhdr_cases {s t : State} (h : exec .dhdr s = .next t) :
    (∃ n, t = toPhase .drecs { sampled s with nchar := n }) ∨ t = enterDone 8 (sampled s) ∨
    ∃ e c, (e, c) ∈ abortCodes .dhdr ∧ t = takeAbort e c (sampled s) := by
  rw [exec_dhdr] at h
  split_ifs at h <;> cases h
  · exact .inr (.inr ⟨_, _, by decide, rfl⟩)
  · exact .inr (.inr ⟨_, _, by decide, rfl⟩)
  · exact .inr (.inl rfl)
  · exact .inr (.inr ⟨_, _, by decide, rfl⟩)
  · exact .inl ⟨_, rfl⟩

/-- Settles O32, by the equation of DHDR. -/
theorem dhdrCases : Obligations.DhdrCases := by
  refine fun s => ⟨fun hbad => ?_, fun hok hlt => ?_, fun hok hle hc => ?_, fun hok hle (hc : 256 < charCount s) => ?_,
    fun hok hle (hc : 1 ≤ charCount s) (hc' : charCount s ≤ 256) => ?_⟩
  · have h := exec_dhdr s
    rw [if_pos hbad] at h
    exact aborted_next [] h (List.append_nil _).symm rfl
  · have h := exec_dhdr s
    rw [if_neg (by simp [hok]), if_pos hlt] at h
    exact aborted_next [] h (List.append_nil _).symm rfl
  · rw [exec_dhdr, if_neg (by simp [hok]), if_neg (not_lt.2 hle), if_pos hc]
    rfl
  · have h := exec_dhdr s
    rw [if_neg (by simp [hok]), if_neg (not_lt.2 hle), if_neg (by omega), if_pos hc] at h
    exact aborted_next [] h (List.append_nil _).symm rfl
  · rw [exec_dhdr, if_neg (by simp [hok]), if_neg (not_lt.2 hle), if_neg (by omega), if_neg (by omega)]
    rfl

/-! ## DBITS -/

/-- The field `bitCount` of the container in SRC (spec/45_container_codec.md R217). -/
abbrev bitCount (s : State) : Nat := leNat (readBytes s.src (8 + 9 * s.nchar.toNat) 8)

/-- The state in which DBITS checks the length of the payload. -/
abbrev bitsRead (s : State) : State :=
  { sampled s with
    bitcnt := BitVec.ofNat 64 (bitCount s), paylen := BitVec.ofNat 64 (ceil8 (bitCount s)),
    poff := BitVec.ofNat 64 (16 + 9 * s.nchar.toNat) }

/-- DBITS, in the order of its checks. -/
theorem exec_dbits (s : State) : exec .dbits s = .next (
    if srcSample s 0 = false then takeAbort .sourceUnavailable .none (sampled s)
    else if s.srcLen.toNat < 8 + 9 * s.nchar.toNat + 8 then takeAbort .formatError .truncBitcount (sampled s)
    else if 16 + 9 * s.nchar.toNat + ceil8 (bitCount s) > s.srcLen.toNat then takeAbort .formatError .truncPayload (bitsRead s)
    else toPhase .decode (bitsRead s)) := by
  rw [exec, execDbits, memRead_eq]
  split
  · rfl
  · split
    · rfl
    · rw [andThen_ok]
      dsimp only
      split <;> rfl

/-- All that a next state of DBITS can be. -/
theorem exec_dbits_cases {s t : State} (h : exec .dbits s = .next t) :
    t = toPhase .decode (bitsRead s) ∨
    ∃ e c u, (e, c) ∈ abortCodes .dbits ∧ (u = sampled s ∨ u = bitsRead s) ∧ t = takeAbort e c u := by
  rw [exec_dbits] at h
  split_ifs at h <;> cases h
  · exact .inr ⟨_, _, _, by decide, .inl rfl, rfl⟩
  · exact .inr ⟨_, _, _, by decide, .inl rfl, rfl⟩
  · exact .inr ⟨_, _, _, by decide, .inr rfl, rfl⟩
  · exact .inl rfl

/-- The registers DBITS writes hold the values of R217: none of them wraps. -/
theorem bitsRead_values (s : State) : (bitsRead s).bitcnt.toNat = bitCount s ∧ (bitsRead s).paylen.toNat = ceil8 (bitCount s) ∧
    (bitsRead s).poff.toNat = 16 + 9 * s.nchar.toNat := by
  have hcount : bitCount s < 256 ^ 8 := by simpa using leNat_lt (readBytes s.src (8 + 9 * s.nchar.toNat) 8)
  have hnchar := s.nchar.isLt
  have hceil : ceil8 (bitCount s) ≤ bitCount s / 8 + 1 := by unfold ceil8; split <;> omega
  refine ⟨?_, ?_, ?_⟩ <;> rw [BitVec.toNat_ofNat] <;> exact Nat.mod_eq_of_lt (by omega)

/-- Settles O35, by the equation of DBITS. -/
theorem dbitsCases : Obligations.DbitsCases := by
  refine fun s => ⟨fun hbad => ?_, fun hok hlt => ?_, fun hok hle hlt => ?_, fun hok (hle : _ + ceil8 (bitCount s) ≤ _) => ?_⟩
  · have h := exec_dbits s
    rw [if_pos hbad] at h
    exact aborted_next [] h (List.append_nil _).symm rfl
  · have h := exec_dbits s
    rw [if_neg (by simp [hok]), if_pos (by omega)] at h
    exact aborted_next [] h (List.append_nil _).symm rfl
  · have h := exec_dbits s
    rw [if_neg (by simp [hok]), if_neg (by omega), if_pos hlt] at h
    exact aborted_next [] h (List.append_nil _).symm rfl
  · obtain ⟨hbitcnt, hpaylen, hpoff⟩ := bitsRead_values s
    have h := exec_dbits s
    rw [if_neg (by simp [hok]), if_neg (by omega), if_neg (by omega)] at h
    exact ⟨_, h, rfl, hbitcnt, hpaylen.trans (congrArg ceil8 hbitcnt.symm), hpoff⟩

/-! ## DRECS -/

section Drecs

variable {s t u v : State} {i : Nat}

/-- Record RECI is not greater than the one before it, or has frequency 0 (spec/45_container_codec.md R216). -/
def recBad (u : State) : Bool := decide ((recByte u u.reci.toNat).toNat < u.prev.toNat ∨ recFreq u u.reci.toNat = 0)

/-- The state after record RECI was read and loaded. -/
def recLoaded (u : State) : State :=
  { ftSet (recByte u u.reci.toNat) (BitVec.ofNat 64 (recFreq u u.reci.toNat)) (sampled (sampled u)) with
    prev := BitVec.ofNat 9 ((recByte u u.reci.toNat).toNat + 1), reci := u.reci + 1 }

/-- One micro-step of DRECS, in the order of its checks (spec/60_exceptions.md R258 (b), (e)). -/
theorem readRecord_eq (u : State) : readRecord u =
    if srcSample u 0 = false then raise .sourceUnavailable .none (sampled u)
    else if u.srcLen.toNat < 8 + 9 * u.reci.toNat + 1 then raise .formatError .truncRecord (sampled u)
    else if srcSample u 1 = false then raise .sourceUnavailable .none (sampled (sampled u))
    else if u.srcLen.toNat < 8 + 9 * u.reci.toNat + 9 then raise .formatError .truncRecord (sampled (sampled u))
    else if recBad u = true then raise .formatError .badRecord (sampled (sampled u))
    else .ok () (recLoaded u) := by
  have hbyte : leNat (readBytes u.src (8 + 9 * u.reci.toNat) 1) = (recByte u u.reci.toNat).toNat := by
    simp [readBytes, leNat, recByte]
  have hfreq : leNat (readBytes u.src (8 + 9 * u.reci.toNat + 1) 8) = recFreq u u.reci.toNat := by
    rw [recFreq, Nat.add_right_comm]
  rw [readRecord, memRead_eq]
  split
  · rfl
  · split
    · rfl
    · rw [andThen_ok, memRead_eq, srcSample_sampled]
      split
      · rfl
      · dsimp only
        split
        · rfl
        · rw [andThen_ok, hbyte, hfreq, BitVec.ofNat_toNat, BitVec.setWidth_eq]
          simp only [recBad, decide_eq_true_eq]
          rfl

/-- `u` is the state of DRECS, begun in `s`, after `i` records that were good. -/
structure Loading (i : Nat) (s u : State) : Prop where
  reci : u.reci.toNat = i
  prev : u.prev.toNat = if i = 0 then 0 else (recByte s (i - 1)).toNat + 1
  frame : ∃ ft reci prev, u = { s with ft := ft, reci := reci, prev := prev, srcOkNext := s.srcOkNext.drop (2 * i) }

theorem Loading.srcSample (h : Loading i s u) (k : Nat) : Safety.srcSample u k = Safety.srcSample s (2 * i + k) := by
  obtain ⟨ft, reci, prev, rfl⟩ := h.frame
  exact sampleAt_drop s.srcOkNext s.srcOk (2 * i) k

theorem Loading.memory (h : Loading i s u) : u.src = s.src ∧ u.srcLen = s.srcLen ∧ u.snk = s.snk ∧ u.outcnt = s.outcnt := by
  obtain ⟨ft, reci, prev, rfl⟩ := h.frame
  exact ⟨rfl, rfl, rfl, rfl⟩

/-- The check of record RECI is the one of `recGood`. -/
theorem Loading.recBad_iff (h : Loading i s u) : recBad u = true ↔ ¬ recGood s i := by
  have hbyte (k : Nat) : recByte u k = recByte s k := by rw [recByte, h.memory.1, recByte]
  have hfreq (k : Nat) : recFreq u k = recFreq s k := by rw [recFreq, h.memory.1, recFreq]
  rw [recBad, decide_eq_true_eq, hbyte, hfreq, h.reci, h.prev, recGood]
  by_cases hi : i = 0
  · simp [hi]
  · simp only [hi, if_false, ne_eq, not_false_eq_true, true_imp_iff]
    omega

/-- The micro-step at record `i`, in the terms of the state DRECS began in. -/
theorem Loading.readRecord_eq (h : Loading i s u) : readRecord u =
    if Safety.srcSample s (2 * i) = false then raise .sourceUnavailable .none (sampled u)
    else if s.srcLen.toNat < 8 + 9 * i + 1 then raise .formatError .truncRecord (sampled u)
    else if Safety.srcSample s (2 * i + 1) = false then raise .sourceUnavailable .none (sampled (sampled u))
    else if s.srcLen.toNat < 8 + 9 * i + 9 then raise .formatError .truncRecord (sampled (sampled u))
    else if ¬ recGood s i then raise .formatError .badRecord (sampled (sampled u))
    else .ok () (recLoaded u) := by
  rw [Proofs.readRecord_eq]
  simp only [h.srcSample, h.memory.2.1, h.reci, h.recBad_iff, Nat.add_zero]

theorem Loading.step (h : Loading i s u) (hi : i < 511) : Loading (i + 1) s (recLoaded u) := by
  obtain ⟨hreci, -, ft, reci, prev, rfl⟩ := h
  refine ⟨?_, ?_, ?_⟩
  · have hlt : reci.toNat + 1 < 2 ^ 9 := hreci ▸ by omega
    have hsucc : (reci + 1).toNat = reci.toNat + 1 := BitVec.toNat_add_of_lt (y := 1) hlt
    exact hsucc.trans (congrArg (· + 1) hreci)
  · have hb := (recByte s i).isLt
    have hprev : (BitVec.ofNat 9 ((recByte s reci.toNat).toNat + 1)).toNat = (recByte s i).toNat + 1 := by
      rw [show reci.toNat = i from hreci, BitVec.toNat_ofNat]
      exact Nat.mod_eq_of_lt (by omega)
    exact hprev
  · have hdrop : s.srcOkNext.drop (2 * (i + 1)) = (s.srcOkNext.drop (2 * i)).tail.tail := by
      simp [Nat.mul_add]
    rw [hdrop]
    exact ⟨_, _, _, rfl⟩

/-- A micro-step of DRECS at a record that is inside SRC and good, when both its samples are 1. -/
theorem Loading.readRecord_good (h : Loading i s u) (h0 : Safety.srcSample s (2 * i) = true)
    (h1 : Safety.srcSample s (2 * i + 1) = true) (hlen : 8 + 9 * (i + 1) ≤ s.srcLen.toNat) (hgood : recGood s i) :
    readRecord u = .ok () (recLoaded u) := by
  rw [h.readRecord_eq, if_neg (by simp [h0]), if_neg (by omega), if_neg (by simp [h1]), if_neg (by omega),
    if_neg (not_not_intro hgood)]

/-- The state in which DRECS begins its loop. -/
abbrev drecsStart (s : State) : State := { histClr s with reci := 0, prev := 0 }

/-- The first `i` micro-steps of DRECS, when their records are inside SRC and good and their samples are 1. -/
theorem readRecords_good (n : Nat) (hi : i < 512) (hready : srcReady s (2 * i)) (hlen : i ≠ 0 → 8 + 9 * i ≤ s.srcLen.toNat)
    (hgood : ∀ j < i, recGood s j) :
    ∃ u, Loading i s u ∧ readRecords (i + n) (drecsStart s) = readRecords n u := by
  induction i generalizing n with
  | zero => exact ⟨drecsStart s, ⟨rfl, rfl, _, _, _, rfl⟩, by rw [Nat.zero_add]⟩
  | succ i ih =>
    have hlen' : 8 + 9 * (i + 1) ≤ s.srcLen.toNat := hlen i.succ_ne_zero
    obtain ⟨u, hu, hloop⟩ := ih (n + 1) (by omega) (fun k hk => hready k (by omega)) (fun _ => by omega)
      fun j hj => hgood j (by omega)
    refine ⟨recLoaded u, hu.step (by omega), ?_⟩
    rw [Nat.add_assoc, Nat.add_comm 1, hloop, readRecords,
      hu.readRecord_good (hready _ (by omega)) (hready _ (by omega)) hlen' (hgood i i.lt_succ_self), andThen_ok]

/-- What DRECS does at record `i`, after good ones: an abort of its micro-step ends the phase. -/
theorem exec_drecs_at (hi : i < s.nchar.toNat) (hready : srcReady s (2 * i)) (hlen : i ≠ 0 → 8 + 9 * i ≤ s.srcLen.toNat)
    (hgood : ∀ j < i, recGood s j) :
    ∃ u, Loading i s u ∧ ∀ t, readRecord u = .abort t → exec .drecs s = .next t := by
  obtain ⟨n, hn⟩ : ∃ n, s.nchar.toNat = i + (n + 1) := ⟨s.nchar.toNat - i - 1, by omega⟩
  obtain ⟨u, hu, hloop⟩ := readRecords_good (s := s) (n + 1) (hi.trans s.nchar.isLt) hready hlen hgood
  refine ⟨u, hu, fun t ht => ?_⟩
  rw [exec, execDrecs, hn, hloop, readRecords, ht]
  rfl

/-- What DRECS may change before it ends. -/
def DrecsFrame (s u : State) : Prop :=
  ∃ ft reci prev next, u = { s with ft := ft, reci := reci, prev := prev, srcOkNext := next }

theorem readRecords_meets (n : Nat) (h : DrecsFrame s u) :
    Meets (DrecsFrame s) (fun e c v => DrecsFrame s v ∧ (e, c) ∈ abortCodes .drecs) False (readRecords n u) := by
  induction n generalizing u with
  | zero => exact h
  | succ n ih =>
    refine Meets.bind (P := DrecsFrame s) ?_ fun _ _ hv => ih hv
    obtain ⟨ft, reci, prev, next, rfl⟩ := h
    rw [readRecord_eq]
    split_ifs
    · exact meets_raise ⟨⟨_, _, _, _, rfl⟩, by decide⟩
    · exact meets_raise ⟨⟨_, _, _, _, rfl⟩, by decide⟩
    · exact meets_raise ⟨⟨_, _, _, _, rfl⟩, by decide⟩
    · exact meets_raise ⟨⟨_, _, _, _, rfl⟩, by decide⟩
    · exact meets_raise ⟨⟨_, _, _, _, rfl⟩, by decide⟩
    · exact ⟨_, _, _, _, rfl⟩

/-- All that a next state of DRECS can be. -/
theorem exec_drecs_cases (h : exec .drecs s = .next t) : ∃ u, DrecsFrame s u ∧
    (t = toPhase .leaves u ∨ ∃ e c, (e, c) ∈ abortCodes .drecs ∧ t = takeAbort e c u) := by
  have loop := readRecords_meets s.nchar.toNat (s := s) (u := drecsStart s) ⟨_, _, _, _, rfl⟩
  rw [exec, execDrecs] at h
  cases hr : readRecords s.nchar.toNat (drecsStart s) with
  | ok a u =>
    rw [hr] at h loop
    exact ⟨u, loop, .inl (Host.Outcome.next.inj h).symm⟩
  | abort v =>
    rw [hr] at h loop
    obtain ⟨e, c, u, ⟨hu, hc⟩, rfl⟩ := loop
    exact ⟨u, hu, .inr ⟨e, c, hc, (Host.Outcome.next.inj h).symm⟩⟩
  | fault f =>
    rw [hr] at loop
    exact loop.elim

end Drecs

/-- Settles O34, by the checks of the micro-step at record `i`. -/
theorem drecsRejects : Obligations.DrecsRejects := by
  intro s i hi hready hlen hgood
  obtain ⟨u, hu, hstop⟩ := exec_drecs_at hi hready hlen hgood
  obtain ⟨-, -, hsnk, hout⟩ := hu.memory
  have aborts {e : ErrKind} {c : SubCause} {v : State} (h : readRecord u = .abort (takeAbort e c v))
      (hv : v.snk = u.snk ∧ v.outcnt = u.outcnt) :
      ∃ t, exec .drecs s = .next t ∧ t.err = errCode e ∧ t.subErr = subCode c ∧ abortedFrom s t :=
    aborted_next [] (hstop _ h) (by rw [hv.1, hsnk, List.append_nil]) (by rw [hv.2, hout]; rfl)
  have check := hu.readRecord_eq
  refine ⟨fun h0 h1 hbad => ?_, fun hbad => ?_⟩
  · rw [if_neg (by simp [h0])] at check
    by_cases hb : s.srcLen.toNat < 8 + 9 * i + 1
    · rw [if_pos hb] at check
      rw [if_pos (by omega)]
      exact aborts check ⟨rfl, rfl⟩
    · rw [if_neg hb, if_neg (by simp [h1 (by omega)])] at check
      by_cases hf : s.srcLen.toNat < 8 + 9 * i + 9
      · rw [if_pos hf] at check ⊢
        exact aborts check ⟨rfl, rfl⟩
      · rw [if_neg hf, if_pos (hbad.resolve_left hf)] at check
        rw [if_neg hf]
        exact aborts check ⟨rfl, rfl⟩
  · by_cases h0 : srcSample s (2 * i) = false
    · rw [if_pos h0] at check
      exact aborts check ⟨rfl, rfl⟩
    · obtain ⟨hb, h1⟩ := hbad.resolve_left h0
      rw [if_neg h0, if_neg (by omega), if_pos h1] at check
      exact aborts check ⟨rfl, rfl⟩

/-! ## The frame -/

/-- The phases that read the source and append nothing leave every byte of memory as it was. -/
theorem sourceReaders_keep_memory {s t : State} {i : Instr} (hi : i = .hist ∨ i = .dhdr ∨ i = .drecs ∨ i = .dbits)
    (h : exec i s = .next t) : t.src = s.src ∧ t.pbuf = s.pbuf := by
  obtain rfl | rfl | rfl | rfl := hi
  · obtain ⟨ft, idx, next, rfl | rfl⟩ := exec_hist_cases h <;> exact ⟨rfl, rfl⟩
  · obtain ⟨n, rfl⟩ | rfl | ⟨e, c, -, rfl⟩ := exec_dhdr_cases h <;> exact ⟨rfl, rfl⟩
  · obtain ⟨u, ⟨ft, reci, prev, next, rfl⟩, rfl | ⟨e, c, -, rfl⟩⟩ := exec_drecs_cases h <;> exact ⟨rfl, rfl⟩
  · obtain rfl | ⟨e, c, u, -, rfl | rfl, rfl⟩ := exec_dbits_cases h <;> exact ⟨rfl, rfl⟩

/-- Settles O49, by all that a next state of each of the four phases can be. -/
theorem frameSourceReaders : Obligations.FrameSourceReaders := by
  refine fun s t => ⟨fun h => ?_, fun h => ?_, fun h => ?_, fun h => ?_, fun i hi h a => ?_⟩
  · obtain ⟨ft, idx, next, rfl | rfl⟩ := exec_hist_cases h
    · exact ⟨rfl, .inl ⟨rfl, rfl, rfl, rfl, rfl, rfl, rfl⟩⟩
    · exact ⟨rfl, .inr (abortedWithin_of_reader (i := .hist) (by decide))⟩
  · obtain ⟨n, rfl⟩ | rfl | ⟨e, c, hc, rfl⟩ := exec_dhdr_cases h
    · exact ⟨rfl, .inl ⟨rfl, rfl, rfl, rfl, rfl, rfl, rfl⟩⟩
    · exact ⟨rfl, .inr (.inl ⟨rfl, rfl, rfl, rfl, rfl, rfl, rfl, rfl⟩)⟩
    · exact ⟨rfl, .inr (.inr (abortedWithin_of_reader hc))⟩
  · obtain ⟨u, ⟨ft, reci, prev, next, rfl⟩, rfl | ⟨e, c, hc, rfl⟩⟩ := exec_drecs_cases h
    · exact ⟨rfl, .inl ⟨rfl, rfl, rfl, rfl, rfl, rfl, rfl⟩⟩
    · exact ⟨rfl, .inr (abortedWithin_of_reader hc)⟩
  · obtain rfl | ⟨e, c, u, hc, rfl | rfl, rfl⟩ := exec_dbits_cases h
    · exact ⟨rfl, .inl ⟨rfl, rfl, rfl, rfl, rfl, rfl, rfl⟩⟩
    · exact ⟨rfl, .inr (abortedWithin_of_reader hc)⟩
    · exact ⟨rfl, .inr (abortedWithin_of_reader hc)⟩
  · obtain ⟨hsrc, hpbuf⟩ := sourceReaders_keep_memory hi h
    exact ⟨congrArg (readByte · a) hsrc, congrArg (readByte · a) hpbuf⟩

end Sys2Proof.Proofs

namespace Sys2Proof.Proofs

open Sys2Proof.Machine Sys2Proof.Safety

/-! # EMIT

EMIT appends the bytes of `emitImage`, in pieces, and moves its cursors between them. `Emits` says what such a piece does. -/

section Appended

variable {bs cs : List Byte} {s : State}

theorem appended_append (bs cs : List Byte) (s : State) : appended cs (appended bs s) = appended (bs ++ cs) s := by
  simp only [appended, List.append_assoc, List.length_append, List.drop_drop, BitVec.ofNat_add, BitVec.add_assoc]

theorem appendedThenBad_append (bs cs : List Byte) (s : State) :
    appendedThenBad cs (appended bs s) = appendedThenBad (bs ++ cs) s := by
  simp only [appendedThenBad, appended, List.append_assoc, List.length_append, List.drop_drop, BitVec.ofNat_add,
    BitVec.add_assoc, Nat.add_assoc]

theorem appended_outcnt (h : s.outcnt.toNat + bs.length < 2 ^ 64) :
    (appended bs s).outcnt.toNat = s.outcnt.toNat + bs.length := by
  have hlen : (BitVec.ofNat 64 bs.length).toNat = bs.length := by
    rw [BitVec.toNat_ofNat]
    exact Nat.mod_eq_of_lt (by omega)
  rw [appended, BitVec.toNat_add, hlen]
  exact Nat.mod_eq_of_lt h

end Appended

section Emits

variable {bs cs : List Byte} {symi symi' : BitVec 9} {emi emi' : Word64} {u : State} {r : Res Unit}

/-- The cursors of EMIT set. -/
abbrev withCursors (symi : BitVec 9) (emi : Word64) (s : State) : State := { s with symi := symi, emi := emi }

/-- A piece of EMIT, begun in `u`, appends `bs` and leaves the cursors at `symi` and `emi` when the samples are 1; it aborts at the
first sample that is 0. -/
structure Emits (bs : List Byte) (symi : BitVec 9) (emi : Word64) (u : State) (r : Res Unit) : Prop where
  ready : snkReady u bs.length → r = .ok () (withCursors symi emi (appended bs u))
  stops : ∀ k < bs.length, snkReady u k → snkSample u k = false →
    ∃ x y, r = .abort (takeAbort .sinkError .none (withCursors x y (appendedThenBad (bs.take k) u)))

theorem Emits.bind {f : Unit → State → Res Unit} (h : Emits bs symi emi u r)
    (h' : Emits cs symi' emi' (withCursors symi emi (appended bs u)) (f () (withCursors symi emi (appended bs u)))) :
    Emits (bs ++ cs) symi' emi' u (andThen r f) := by
  have sample (k : Nat) : snkSample (withCursors symi emi (appended bs u)) k = snkSample u (bs.length + k) :=
    snkSample_appended bs u k
  refine ⟨fun hready => ?_, fun k hk hready hbad => ?_⟩
  · rw [List.length_append] at hready
    rw [h.ready fun j hj => hready j (by omega), andThen_ok, h'.ready fun j hj => (sample j).trans (hready _ (by omega)),
      ← appended_append]
    rfl
  · rw [List.length_append] at hk
    by_cases hlt : k < bs.length
    · obtain ⟨x, y, hr⟩ := h.stops k hlt hready hbad
      exact ⟨x, y, by rw [hr, andThen_abort, List.take_append_of_le_length hlt.le]⟩
    · obtain ⟨j, rfl⟩ := Nat.exists_eq_add_of_le (not_lt.1 hlt)
      obtain ⟨x, y, hr⟩ := h'.stops j (by omega) (fun i hi => (sample i).trans (hready _ (by omega))) ((sample j).trans hbad)
      refine ⟨x, y, ?_⟩
      rw [h.ready fun i hi => hready i (by omega), andThen_ok, hr, List.take_length_add_append, ← appendedThenBad_append]
      rfl

/-- Where the cursors stand when a piece begins is no matter. -/
theorem Emits.fromCursors {x : BitVec 9} {y : Word64} (h : Emits bs symi emi (withCursors x y u) r) : Emits bs symi emi u r :=
  ⟨h.ready, h.stops⟩

theorem emits_sinkBytes (bs : List Byte) (u : State) : Emits bs u.symi u.emi u (sinkBytes bs u) :=
  ⟨sinkBytes_ready, fun _ hk hready hbad => ⟨u.symi, u.emi, sinkBytes_stops hk hready hbad⟩⟩

theorem appended_nil (u : State) : appended [] u = u := by
  simp [appended]

/-- A move of the cursors appends nothing. -/
theorem emits_cursors (symi : BitVec 9) (emi : Word64) (u : State) : Emits [] symi emi u (.ok () (withCursors symi emi u)) :=
  ⟨fun _ => by rw [appended_nil], fun k hk => absurd hk (Nat.not_lt_zero k)⟩

end Emits

/-! ## The pieces -/

section Pieces

variable {s u : State}

/-- The record of a byte value, if it has one (spec/45_container_codec.md R209). -/
def recordOf (s : State) (b : Byte) : List Byte := if ftGet s b = 0 then [] else b :: leBytes 8 (ftGet s b).toNat

theorem recordsImage_eq (s : State) :
    recordsImage s = (List.range 256).flatMap fun k => recordOf s (BitVec.ofNat 8 k) := by
  have filter (l : List Byte) : ((l.filter fun b => ftGet s b != 0).flatMap fun b => b :: leBytes 8 (ftGet s b).toNat) =
      l.flatMap (recordOf s) := by
    induction l with
    | nil => rfl
    | cons b l ih =>
      by_cases hb : ftGet s b = 0
      · rw [List.filter_cons_of_neg (by simp [hb]), ih, List.flatMap_cons, recordOf, if_pos hb, List.nil_append]
      · rw [List.filter_cons_of_pos (by simpa using hb), List.flatMap_cons, ih, List.flatMap_cons, recordOf, if_neg hb]
  rw [recordsImage, presentBytes, filter, List.flatMap_map]

/-- One micro-step of the record loop: the record of the byte value SYMI (spec/45_container_codec.md R207, R209). -/
theorem emitRecord_emits (u : State) : Emits (recordOf u (u.symi.setWidth 8)) (u.symi + 1) u.emi u (emitRecord u) := by
  have byte : leBytes 1 (u.symi.setWidth 8 : Byte).toNat = [u.symi.setWidth 8] :=
    congrArg (fun b : Byte => [b]) (by rw [BitVec.ofNat_toNat, BitVec.setWidth_eq])
  have cursor (bs : List Byte) := emits_cursors (u.symi + 1) u.emi (withCursors u.symi u.emi (appended bs u))
  rw [← List.append_nil (recordOf _ _), emitRecord, recordOf]
  split
  · exact (emits_cursors u.symi u.emi u).bind (cursor [])
  · rw [memWrite, byte]
    exact Emits.bind ((emits_sinkBytes [_] u).bind (emits_sinkBytes _ _)) (cursor _)

theorem emitRecords_emits (n i : Nat) (hi : u.symi = BitVec.ofNat 9 i) :
    Emits ((List.range' i n).flatMap fun k => recordOf u (BitVec.ofNat 8 k)) (BitVec.ofNat 9 (i + n)) u.emi u (emitRecords n u) := by
  induction n generalizing u i with
  | zero =>
    rw [Nat.add_zero, ← hi]
    exact emits_cursors u.symi u.emi u
  | succ n ih =>
    have hbyte : u.symi.setWidth 8 = BitVec.ofNat 8 i := by
      rw [hi]
      exact BitVec.setWidth_ofNat_of_le (by decide) i
    have hnext : u.symi + 1 = BitVec.ofNat 9 (i + 1) := by rw [hi, BitVec.ofNat_add]; rfl
    have first := emitRecord_emits u
    rw [hbyte, hnext] at first
    rw [List.range'_succ, List.flatMap_cons, show i + (n + 1) = i + 1 + n by omega]
    exact first.bind (f := fun _ v => emitRecords n v) 
      (ih (u := withCursors (BitVec.ofNat 9 (i + 1)) u.emi (appended (recordOf u (BitVec.ofNat 8 i)) u)) (i + 1) rfl)

theorem emitPayload_emits (n : Nat) (h : u.emi.toNat + n < 2 ^ 64) :
    Emits (readBytes u.pbuf u.emi.toNat n) u.symi (u.emi + BitVec.ofNat 64 n) u (emitPayload n u) := by
  induction n generalizing u with
  | zero =>
    rw [BitVec.add_zero]
    exact emits_cursors u.symi u.emi u
  | succ n ih =>
    have hlt : u.emi.toNat + 1 < 2 ^ 64 := by omega
    have hemi : (u.emi + 1).toNat = u.emi.toNat + 1 := BitVec.toNat_add_of_lt (y := 1) hlt
    have rest := ih (u := withCursors u.symi (u.emi + 1) (appended [readByte u.pbuf u.emi.toNat] u))
      (show (u.emi + 1).toNat + n < _ by omega)
    rw [readBytes, ← hemi, ← count_succ, emitPayload, sinkWrite_eq]
    exact (emits_sinkBytes [readByte u.pbuf u.emi.toNat] u).bind
      (f := fun _ v => emitPayload n { v with emi := v.emi + 1 }) rest.fromCursors

end Pieces

/-! ## The whole of EMIT -/

section Emit

variable {s t : State}

/-- EMIT but for its last update. -/
def emitBody (s : State) : Res Unit :=
  andThen (memWrite 8 s.nchar.toNat s) fun _ s1 =>
    if s1.nchar = 0 then .ok () s1
    else
      andThen (emitRecords 256 { s1 with symi := 0 }) fun _ s2 =>
      andThen (memWrite 8 s2.bitcnt.toNat s2) fun _ s3 =>
      emitPayload (elen s3) { s3 with emi := 0 }

theorem exec_emit (s : State) :
    exec .emit s = finish (andThen (emitBody s) fun _ v => .ok () (enterDone v.srcLen.toNat v)) := by
  rw [exec, execEmit, emitBody, andThen_assoc]
  congr 2
  funext _ s1
  split
  · rfl
  · simp only [andThen_assoc]

theorem elen_lt (s : State) : elen s < 2 ^ 64 := by
  have hplen := s.plen.isLt
  have hbitcnt := s.bitcnt.isLt
  unfold elen ceil8
  split
  · exact hplen
  · split <;> omega

/-- The payload loop, from its first byte. -/
theorem emitPayload_start_emits (u : State) : Emits (readBytes u.pbuf 0 (elen u)) u.symi (BitVec.ofNat 64 (elen u)) u
    (emitPayload (elen u) { u with emi := 0 }) := by
  have piece := emitPayload_emits (u := withCursors u.symi 0 u) (elen u) (by simpa using elen_lt u)
  have cursor : (withCursors u.symi 0 u).emi + BitVec.ofNat 64 (elen u) = BitVec.ofNat 64 (elen u) := BitVec.zero_add _
  rw [cursor] at piece
  exact piece.fromCursors

/-- The bit count and the payload. -/
theorem emitBits_emits (u : State) :
    Emits (leBytes 8 u.bitcnt.toNat ++ readBytes u.pbuf 0 (elen u)) u.symi (BitVec.ofNat 64 (elen u)) u
      (andThen (memWrite 8 u.bitcnt.toNat u) fun _ v => emitPayload (elen v) { v with emi := 0 }) :=
  (emits_sinkBytes _ u).bind (emitPayload_start_emits (appended (leBytes 8 u.bitcnt.toNat) u))

/-- The records, the bit count and the payload. -/
theorem emitFields_emits (u : State) :
    Emits (recordsImage u ++ (leBytes 8 u.bitcnt.toNat ++ readBytes u.pbuf 0 (elen u))) 256 (BitVec.ofNat 64 (elen u)) u
      (andThen (emitRecords 256 { u with symi := 0 }) fun _ v =>
        andThen (memWrite 8 v.bitcnt.toNat v) fun _ w => emitPayload (elen w) { w with emi := 0 }) := by
  have records : Emits (recordsImage u) 256 u.emi u (emitRecords 256 { u with symi := 0 }) := by
    rw [recordsImage_eq, List.range_eq_range']
    exact (emitRecords_emits (u := withCursors 0 u.emi u) 256 0 rfl).fromCursors
  exact records.bind (emitBits_emits (withCursors 256 u.emi (appended (recordsImage u) u)))

/-- Where EMIT leaves its cursors; with NCHAR = 0 it does not use them (spec/45_container_codec.md R208). -/
abbrev emitCursors (s : State) : BitVec 9 × Word64 := if s.nchar = 0 then (s.symi, s.emi) else (256, BitVec.ofNat 64 (elen s))

theorem emitBody_emits (s : State) : Emits (emitImage s) (emitCursors s).1 (emitCursors s).2 s (emitBody s) := by
  have header := emits_sinkBytes (leBytes 8 s.nchar.toNat) s
  unfold emitBody emitImage
  by_cases h0 : s.nchar = 0
  · rw [emitCursors, if_pos h0, if_pos h0]
    refine header.bind ?_
    rw [if_pos (by exact h0)]
    exact emits_cursors s.symi s.emi _
  · rw [emitCursors, if_neg h0, if_neg h0, List.append_assoc]
    refine header.bind ?_
    rw [if_neg (by exact h0)]
    exact emitFields_emits (appended (leBytes 8 s.nchar.toNat) s)

/-- EMIT when every append finds `SNK_OK = 1`. -/
theorem exec_emit_ready (h : snkReady s (emitImage s).length) : exec .emit s =
    .next (enterDone s.srcLen.toNat (withCursors (emitCursors s).1 (emitCursors s).2 (appended (emitImage s) s))) := by
  rw [exec_emit, (emitBody_emits s).ready h]
  rfl

/-- EMIT when the append number `k` is the first that finds `SNK_OK = 0`. -/
theorem exec_emit_stops {k : Nat} (hk : k < (emitImage s).length) (h : snkReady s k) (hbad : snkSample s k = false) :
    ∃ symi emi, exec .emit s =
      .next (takeAbort .sinkError .none (withCursors symi emi (appendedThenBad ((emitImage s).take k) s))) := by
  obtain ⟨symi, emi, hr⟩ := (emitBody_emits s).stops k hk h hbad
  exact ⟨symi, emi, by rw [exec_emit, hr]; rfl⟩

/-- EMIT always answers a next state, and this is all it can be. -/
theorem exec_emit_cases (s : State) : ∃ symi emi,
    exec .emit s = .next (enterDone s.srcLen.toNat (withCursors symi emi (appended (emitImage s) s))) ∨
    ∃ k < (emitImage s).length,
      exec .emit s = .next (takeAbort .sinkError .none (withCursors symi emi (appendedThenBad ((emitImage s).take k) s))) := by
  obtain hready | ⟨k, hk, hready, hbad⟩ := ready_or_firstBad (snkSample s) (emitImage s).length
  · exact ⟨_, _, .inl (exec_emit_ready hready)⟩
  · obtain ⟨symi, emi, h⟩ := exec_emit_stops hk hready hbad
    exact ⟨symi, emi, .inr ⟨k, hk, h⟩⟩

end Emit

/-- Settles O28: EMIT appends the bytes of `emitImage` up to the bad sample. -/
theorem emitStopsAtBadSample : Obligations.EmitStopsAtBadSample := by
  intro s k hk hready hbad hfits
  obtain ⟨symi, emi, h⟩ := exec_emit_stops hk hready hbad
  have hlen : ((emitImage s).take k).length = k := List.length_take_of_le hk.le
  exact aborted_next ((emitImage s).take k) h rfl (appended_outcnt (by omega))

end Sys2Proof.Proofs

namespace Sys2Proof.Proofs

open Sys2Proof.Machine Sys2Proof.Safety

/-! # DECODE: what any run of it can do -/

section Decode

variable {s t u : State} {m n N : Nat}

/-- BR.GETBIT, in the order of its checks (spec/44_bit_reader_decoder.md R191, spec/60_exceptions.md R258 (c)). -/
theorem getBit_eq (u : State) : getBit u =
    if 8 * u.paylen.toNat ≤ u.cur.toNat then raise .formatError .pastPayload u
    else if srcSample u 0 = false then raise .sourceUnavailable .none (sampled u)
    else if u.srcLen.toNat < u.poff.toNat + u.cur.toNat / 8 + 1 then raise .formatError .truncPayload (sampled u)
    else .ok (payloadBitAt u u.cur.toNat) { sampled u with cur := u.cur + 1 } := by
  have hbyte (a : Nat) : leNat (readBytes u.src a 1) = (readByte u.src a).toNat := by simp [readBytes, leNat]
  rw [getBit, memRead_eq]
  split
  · rfl
  · split
    · rfl
    · split
      · rfl
      · rw [andThen_ok, hbyte]
        rfl

/-- `u` is a state of DECODE, begun in `s`, in which at most `n` bytes have been appended. -/
def DecodeFrame (s : State) (n : Nat) (u : State) : Prop :=
  ∃ bs cur nodep srcNext snkNext, bs.length ≤ n ∧
    u = { appended bs s with cur := cur, nodep := nodep, srcOkNext := srcNext, snkOkNext := snkNext }

/-- What DECODE raises, and where: 2/6 only when the payload is not inside SRC. -/
def DecodeAborts (s : State) (N : Nat) (e : ErrKind) (c : SubCause) (u : State) : Prop :=
  DecodeFrame s N u ∧ (e, c) ∈ abortCodes .decode ∧ (c = .truncPayload → s.srcLen.toNat < s.poff.toNat + s.paylen.toNat)

/-- The bit cursor can wrap: the one case in which a descent may find no leaf (log 8). -/
abbrev cursorWraps (s : State) : Prop := 2 ^ 64 ≤ 8 * s.paylen.toNat

theorem DecodeFrame.start (s : State) : DecodeFrame s 0 { s with cur := 0 } :=
  ⟨[], 0, s.nodep, s.srcOkNext, s.snkOkNext, le_rfl, by rw [appended_nil]⟩

theorem DecodeFrame.mono (h : DecodeFrame s n u) (hn : n ≤ N) : DecodeFrame s N u := by
  obtain ⟨bs, cur, nodep, srcNext, snkNext, hbs, rfl⟩ := h
  exact ⟨bs, cur, nodep, srcNext, snkNext, hbs.trans hn, rfl⟩

/-- DECODE changes neither the payload's place nor its length. -/
theorem DecodeFrame.payload (h : DecodeFrame s n u) : u.paylen = s.paylen ∧ u.poff = s.poff ∧ u.srcLen = s.srcLen := by
  obtain ⟨bs, cur, nodep, srcNext, snkNext, -, rfl⟩ := h
  exact ⟨rfl, rfl, rfl⟩

theorem DecodeFrame.withCursor (h : DecodeFrame s n u) (cur : Word64) (nodep : NodeIdx) (srcNext snkNext : List Bool) :
    DecodeFrame s n { u with cur := cur, nodep := nodep, srcOkNext := srcNext, snkOkNext := snkNext } := by
  obtain ⟨bs, -, -, -, -, hbs, rfl⟩ := h
  exact ⟨bs, cur, nodep, srcNext, snkNext, hbs, rfl⟩

theorem DecodeFrame.append (h : DecodeFrame s n u) (b : Byte) (snkNext : List Bool) :
    DecodeFrame s (n + 1) (appendByte b { u with snkOkNext := snkNext }) := by
  obtain ⟨bs, cur, nodep, srcNext, -, hbs, rfl⟩ := h
  refine ⟨bs ++ [b], cur, nodep, srcNext, snkNext, by simpa using hbs, ?_⟩
  rw [← appended_append]
  rfl

theorem getBit_meets (h : DecodeFrame s n u) (hn : n ≤ N) :
    Meets (fun v => DecodeFrame s n v ∧
        (¬ cursorWraps s → v.cur.toNat = u.cur.toNat + 1 ∧ u.cur.toNat < 8 * s.paylen.toNat))
      (DecodeAborts s N) (cursorWraps s) (getBit u) := by
  have hread (cur : Word64) : DecodeFrame s n { sampled u with cur := cur } := h.withCursor cur u.nodep _ u.snkOkNext
  obtain ⟨hpaylen, hpoff, hsrcLen⟩ := h.payload
  rw [getBit_eq, hpaylen, hpoff, hsrcLen]
  split_ifs with hpast hbad hout
  · exact meets_raise ⟨h.mono hn, by decide, nofun⟩
  · exact meets_raise ⟨(hread u.cur).mono hn, by decide, nofun⟩
  · exact meets_raise ⟨(hread u.cur).mono hn, by decide, fun _ => by omega⟩
  · refine ⟨hread _, fun hwrap => ⟨?_, not_le.1 hpast⟩⟩
    exact BitVec.toNat_add_of_lt (y := 1) (show u.cur.toNat + 1 < 2 ^ 64 by omega)

/-- A descent: `m` bits are enough when they go past the payload (spec/44_bit_reader_decoder.md R194). -/
theorem descend_meets (h : DecodeFrame s n u) (hn : n ≤ N)
    (hm : ¬ cursorWraps s → 1 ≤ m ∧ 8 * s.paylen.toNat < u.cur.toNat + m) :
    Meets (DecodeFrame s n) (DecodeAborts s N) (cursorWraps s) (descend m u) := by
  induction m generalizing u with
  | zero =>
    rw [descend]
    split
    · exact h
    · exact by_contra fun hwrap => absurd (hm hwrap).1 (by decide)
  | succ m ih =>
    rw [descend]
    split
    · exact h
    · refine (getBit_meets h hn).bind fun b v ⟨hv, hcur⟩ => ih (hv.withCursor v.cur _ v.srcOkNext v.snkOkNext) fun hwrap => ?_
      obtain ⟨hsucc, hlt⟩ := hcur hwrap
      obtain ⟨-, hfuel⟩ := hm hwrap
      refine ⟨by omega, ?_⟩
      show 8 * s.paylen.toNat < v.cur.toNat + m
      omega

theorem sinkWrite_meets (b : Byte) (h : DecodeFrame s n u) (hn : n + 1 ≤ N) :
    Meets (DecodeFrame s (n + 1)) (DecodeAborts s N) (cursorWraps s) (sinkWrite b u) := by
  rw [sinkWrite_eq, sinkBytes_cons]
  split
  · exact meets_raise ⟨(h.withCursor u.cur u.nodep u.srcOkNext _).mono (Nat.le_of_succ_le hn), by decide, nofun⟩
  · exact h.append b _

theorem decodeSymbol_meets (h : DecodeFrame s n u) (hn : n + 1 ≤ N) :
    Meets (DecodeFrame s (n + 1)) (DecodeAborts s N) (cursorWraps s) (decodeSymbol u) := by
  rw [decodeSymbol]
  split
  · exact (sinkWrite_meets _ h hn).bind fun _ v hv => hv.withCursor _ v.nodep v.srcOkNext v.snkOkNext
  · refine Meets.bind ?_ fun _ v hv => sinkWrite_meets _ hv hn
    refine descend_meets (h.withCursor u.cur _ u.srcOkNext u.snkOkNext) (Nat.le_of_succ_le hn) fun _ => ⟨by omega, ?_⟩
    show 8 * s.paylen.toNat < u.cur.toNat + (8 * u.paylen.toNat + 1)
    rw [h.payload.1]
    omega

theorem decodeLoop_meets (h : DecodeFrame s n u) (hn : n + m ≤ N) :
    Meets (DecodeFrame s N) (DecodeAborts s N) (cursorWraps s) (decodeLoop m u) := by
  induction m generalizing u n with
  | zero => exact h.mono hn
  | succ m ih =>
    rw [decodeLoop]
    split
    · exact (decodeSymbol_meets h (by omega)).bind fun _ v hv => ih hv (by omega)
    · exact h.mono (by omega)

/-- DECODE appends at most BITCNT bytes, and then finishes or aborts; it answers a next state unless its cursor can wrap
(spec/44_bit_reader_decoder.md R197). -/
theorem exec_decode_cases (s : State) :
    (cursorWraps s ∧ ∀ t, exec .decode s ≠ .next t) ∨ ∃ u, DecodeFrame s s.bitcnt.toNat u ∧
      (exec .decode s = .next (enterDone (clen u.nchar.toNat u.bitcnt.toNat) u) ∨
        ∃ e c, DecodeAborts s s.bitcnt.toNat e c u ∧ exec .decode s = .next (takeAbort e c u)) := by
  have loop := decodeLoop_meets (m := s.bitcnt.toNat) (DecodeFrame.start s) (Nat.zero_add _).le
  rw [exec, execDecode]
  cases hr : decodeLoop s.bitcnt.toNat { s with cur := 0 } with
  | ok a u =>
    rw [hr] at loop
    exact .inr ⟨u, loop, .inl rfl⟩
  | abort t =>
    rw [hr] at loop
    obtain ⟨e, c, u, hu, rfl⟩ := loop
    exact .inr ⟨u, hu.1, .inr ⟨e, c, hu, rfl⟩⟩
  | fault f =>
    rw [hr] at loop
    exact .inl ⟨loop, nofun⟩

end Decode

/-- EMIT and DECODE leave every byte of memory as it was. -/
theorem appendingPhases_keep_memory {s t : State} {i : Instr} (hi : i = .emit ∨ i = .decode) (h : exec i s = .next t) :
    t.src = s.src ∧ t.pbuf = s.pbuf := by
  obtain rfl | rfl := hi
  · obtain ⟨symi, emi, hd | ⟨k, -, hd⟩⟩ := exec_emit_cases s <;> cases h.symm.trans hd <;> exact ⟨rfl, rfl⟩
  · obtain ⟨-, hno⟩ | ⟨u, ⟨bs, cur, nodep, srcNext, snkNext, -, rfl⟩, hd | ⟨e, c, -, hd⟩⟩ := exec_decode_cases s
    · exact absurd h (hno t)
    · cases h.symm.trans hd
      exact ⟨rfl, rfl⟩
    · cases h.symm.trans hd
      exact ⟨rfl, rfl⟩

theorem subCode_truncPayload {c : SubCause} (h : subCode c = 6) : c = .truncPayload := by
  cases c with
  | truncPayload => rfl
  | _ => exact absurd h (by decide)

/-- Settles O52, by all that a next state of EMIT and of DECODE can be. -/
theorem frameAppendingPhases : Obligations.FrameAppendingPhases := by
  refine fun s t => ⟨fun h hfits => ?_, fun h hfits => ?_, fun i hi h a => ?_⟩
  · obtain ⟨symi, emi, hdone | ⟨k, hk, habort⟩⟩ := exec_emit_cases s
    · obtain rfl := Host.Outcome.next.inj (h.symm.trans hdone)
      exact ⟨rfl, .inl ⟨rfl, rfl, rfl, rfl, rfl, List.prefix_append _ _⟩⟩
    · obtain rfl := Host.Outcome.next.inj (h.symm.trans habort)
      have hlen : ((emitImage s).take k).length = k := List.length_take_of_le hk.le
      exact ⟨rfl, .inr (abortedWithin_takeAbort (i := .emit) ((emitImage s).take k) (by decide) rfl (appended_outcnt (by omega)))⟩
  · obtain ⟨-, hno⟩ | ⟨u, ⟨bs, cur, nodep, srcNext, snkNext, hbs, rfl⟩, hdone | ⟨e, c, ⟨-, hc, htrunc⟩, habort⟩⟩ :=
      exec_decode_cases s
    · exact absurd h (hno t)
    · obtain rfl := Host.Outcome.next.inj (h.symm.trans hdone)
      exact ⟨rfl, .inl ⟨rfl, rfl, rfl, rfl, rfl, List.prefix_append _ _⟩⟩
    · obtain rfl := Host.Outcome.next.inj (h.symm.trans habort)
      refine ⟨rfl, .inr ⟨abortedWithin_takeAbort bs hc rfl (appended_outcnt (by omega)), fun hsub => htrunc ?_⟩⟩
      exact subCode_truncPayload hsub
  · obtain ⟨hsrc, hpbuf⟩ := appendingPhases_keep_memory hi h
    exact ⟨congrArg (readByte · a) hsrc, congrArg (readByte · a) hpbuf⟩

/-! ## The bounds on OUTCNT -/

section Bounds

variable {s : State}

/-- The length of EMIT's output (spec/45_container_codec.md R207, R208). -/
theorem length_emitImage (s : State) : (emitImage s).length =
    8 + if s.nchar = 0 then 0 else 9 * (presentBytes s).length + 8 + elen s := by
  have records : (recordsImage s).length = 9 * (presentBytes s).length := by
    rw [recordsImage, List.length_flatMap]
    simp [Nat.mul_comm]
  rw [emitImage, List.length_append, length_leBytes]
  split
  · rfl
  · rw [List.length_append, List.length_append, length_leBytes, length_readBytes, records]

theorem length_presentBytes_le (s : State) : (presentBytes s).length ≤ 256 := by
  refine (List.length_filter_le _ _).trans ?_
  simp

/-- The bound of spec/20_memory.md R75 on EMIT's output. -/
theorem length_emitImage_le (h : s.nchar = 0 ∨ (s.plen.toNat = s.bitcnt.toNat / 8 + 1 ∧ s.bitcnt.toNat ≤ 255 * s.srcLen.toNat)) :
    (emitImage s).length ≤ 2321 + 32 * s.srcLen.toNat := by
  rw [length_emitImage]
  split
  · omega
  · next hne =>
    obtain ⟨hplen, hbits⟩ := h.resolve_left hne
    have hpresent := length_presentBytes_le s
    have helen : elen s ≤ s.bitcnt.toNat / 8 + 1 := by
      unfold elen ceil8
      split
      · exact hplen.le
      · split <;> omega
    omega

theorem le_ceil8 (n : Nat) : n ≤ 8 * ceil8 n := by
  unfold ceil8
  split <;> omega

/-- A phase that appended `bs`, all of them counted, and then finished or was aborted: OUTCNT is the number of bytes appended. -/
theorem outcnt_bounds {bs : List Byte} {t : State} {n : Nat} (hbs : bs.length ≤ n) (hfits : s.outcnt.toNat + n < 2 ^ 64)
    (hout : t.outcnt = (appended bs s).outcnt) (hsnk : t.phase = phaseCode .done → t.snk = (appended bs s).snk) :
    s.outcnt.toNat ≤ t.outcnt.toNat ∧ t.outcnt.toNat ≤ s.outcnt.toNat + n ∧
    (t.phase = phaseCode .done → t.snk.length + s.outcnt.toNat = s.snk.length + t.outcnt.toNat) := by
  rw [hout, appended_outcnt (by omega)]
  refine ⟨Nat.le_add_right _ _, by omega, fun hdone => ?_⟩
  rw [hsnk hdone, appended, List.length_append]
  omega

theorem phaseCode_error_ne_done : phaseCode .error ≠ phaseCode .done := by decide

/-- EMIT's count. -/
theorem exec_emit_outcnt (hfits : s.outcnt.toNat + (emitImage s).length < 2 ^ 64) :
    ∃ t, exec .emit s = .next t ∧ s.outcnt.toNat ≤ t.outcnt.toNat ∧
      t.outcnt.toNat ≤ s.outcnt.toNat + (emitImage s).length ∧
      (t.phase = phaseCode .done → t.snk.length + s.outcnt.toNat = s.snk.length + t.outcnt.toNat) := by
  obtain ⟨symi, emi, h | ⟨k, hk, h⟩⟩ := exec_emit_cases s
  · exact ⟨_, h, outcnt_bounds le_rfl hfits rfl fun _ => rfl⟩
  · exact ⟨_, h, outcnt_bounds (bs := (emitImage s).take k) (by simp) hfits rfl fun h => absurd h phaseCode_error_ne_done⟩

/-- DECODE's count. -/
theorem exec_decode_outcnt (hpay : 8 * s.paylen.toNat < 2 ^ 64) (hfits : s.outcnt.toNat + s.bitcnt.toNat < 2 ^ 64) :
    ∃ t, exec .decode s = .next t ∧ s.outcnt.toNat ≤ t.outcnt.toNat ∧
      t.outcnt.toNat ≤ s.outcnt.toNat + s.bitcnt.toNat ∧
      (t.phase = phaseCode .done → t.snk.length + s.outcnt.toNat = s.snk.length + t.outcnt.toNat) := by
  obtain ⟨hwrap, -⟩ | ⟨u, ⟨bs, cur, nodep, srcNext, snkNext, hbs, rfl⟩, h | ⟨e, c, -, h⟩⟩ := exec_decode_cases s
  · exact absurd hpay (not_lt.2 hwrap)
  · exact ⟨_, h, outcnt_bounds hbs hfits rfl fun _ => rfl⟩
  · exact ⟨_, h, outcnt_bounds hbs hfits rfl fun h => absurd h phaseCode_error_ne_done⟩

end Bounds

/-- Settles O29: the invariant bounds the output by SRC_LEN, which is below 2^56. -/
theorem outputCountFits : Obligations.OutputCountFits := by
  intro s ⟨hcontrol, hready⟩
  obtain ⟨-, -, -, -, -, -, -, hemit, hdecode⟩ := hready
  have running {i : Instr} (hp : s.phase = phaseCode i) (hi : i ∈ workPhases) :
      s.srcLen.toNat < 2 ^ 56 ∧ s.outcnt.toNat = 0 := by
    have run := running_of_controlOk hcontrol hp hi
    exact ⟨run.cap.trans_lt s.cfg.srcCap.isLt, congrArg BitVec.toNat run.outcnt⟩
  refine ⟨fun hp => ?_, fun hp => ?_⟩
  · obtain ⟨hlen, hout⟩ := running hp (by decide)
    have hle := length_emitImage_le (hemit hp)
    exact ⟨by omega, exec_emit_outcnt (by omega)⟩
  · obtain ⟨hlen, hout⟩ := running hp (by decide)
    obtain ⟨hpaylen, hpoff⟩ := hdecode hp
    have hbits := le_ceil8 s.bitcnt.toNat
    exact ⟨by omega, by omega, by omega, exec_decode_outcnt (by omega) (by omega)⟩

end Sys2Proof.Proofs

namespace Sys2Proof.Proofs

open Sys2Proof.Machine Sys2Proof.Safety

/-! # DECODE, symbol by symbol

A run of DECODE over given symbols, as equations between its states: `decoding c bs i s` is the state in which CUR is `c`, the bytes
`bs` have been appended, and NODEP is `i`. -/

section Symbols

variable {s t : State} {c n : Nat} {bs : List Byte} {i j : NodeIdx} {p q : List Bool} {ps : List (List Bool × NodeIdx)}

/-- A state of DECODE begun in `s`, when every sample so far was 1: one for each bit read and one for each byte appended. -/
def decoding (c : Nat) (bs : List Byte) (i : NodeIdx) (s : State) : State :=
  { appended bs s with cur := BitVec.ofNat 64 c, nodep := i, srcOkNext := s.srcOkNext.drop c }

theorem decoding_start (s : State) : decoding 0 [] s.nodep s = { s with cur := 0 } := by
  rw [decoding, appended_nil]
  rfl

theorem srcSample_decoding (c : Nat) (bs : List Byte) (i : NodeIdx) (s : State) (k : Nat) :
    srcSample (decoding c bs i s) k = srcSample s (c + k) :=
  sampleAt_drop s.srcOkNext s.srcOk c k

theorem decoding_cur (hc : c < 2 ^ 64) : (decoding c bs i s).cur.toNat = c := by
  rw [decoding, BitVec.toNat_ofNat]
  exact Nat.mod_eq_of_lt hc

/-- The payload inside SRC holds the bits `p` from number `c` on, and they can be read: their samples of `SRC_OK` are 1. -/
def readable (s : State) : Nat → List Bool → Prop
  | _, [] => True
  | c, v :: p =>
    (c < 8 * s.paylen.toNat ∧ c + 1 < 2 ^ 64 ∧ srcSample s c = true ∧ v = payloadBitAt s c) ∧ readable s (c + 1) p

theorem readable_append : readable s c (p ++ q) ↔ readable s c p ∧ readable s (c + p.length) q := by
  induction p generalizing c with
  | nil => simp [readable]
  | cons v p ih =>
    rw [List.cons_append, readable, ih, readable, List.length_cons, Nat.add_assoc, Nat.add_comm 1,
      and_assoc (b := readable s (c + 1) p)]

theorem readable_of_bits (hlen : c + p.length ≤ 8 * s.paylen.toNat) (hlt : c + p.length < 2 ^ 64)
    (hready : ∀ k < p.length, srcSample s (c + k) = true) (hbits : ∀ k (h : k < p.length), p[k] = payloadBitAt s (c + k)) :
    readable s c p := by
  induction p generalizing c with
  | nil => trivial
  | cons v p ih =>
    rw [List.length_cons] at hlen hlt hready
    refine ⟨⟨by omega, by omega, hready 0 (by omega), hbits 0 (by simp)⟩, ih (by omega) (by omega) (fun k hk => ?_) fun k hk => ?_⟩
    · rw [Nat.add_assoc, Nat.add_comm 1]
      exact hready (k + 1) (by omega)
    · rw [Nat.add_assoc, Nat.add_comm 1]
      exact hbits (k + 1) (by simpa using hk)

theorem readable_of_payloadBegins (h : payloadBegins s p) (hready : srcReady s p.length) : readable s 0 p := by
  obtain ⟨-, hlen, hlt, hbits⟩ := h
  refine readable_of_bits (by omega) (by omega) ?_ ?_ <;> simpa

/-! ## One bit, one path, one symbol -/

theorem sinkWrite_good {u : State} (b : Byte) (hok : snkSample u 0 = true) : sinkWrite b u = .ok () (appended [b] u) := by
  refine (sinkWrite_eq b u).trans (sinkBytes_ready fun k hk => ?_)
  obtain rfl : k = 0 := by simpa using hk
  exact hok

theorem sinkWrite_bad {u : State} (b : Byte) (hbad : snkSample u 0 = false) :
    sinkWrite b u = .abort (takeAbort .sinkError .none (appendedThenBad [] u)) :=
  (sinkWrite_eq b u).trans (sinkBytes_stops (bs := [b]) (k := 0) Nat.one_pos (fun _ hk => absurd hk (Nat.not_lt_zero _)) hbad)

/-- The payload lies inside SRC. -/
abbrev payloadInside (s : State) : Prop := s.poff.toNat + s.paylen.toNat ≤ s.srcLen.toNat

/-- BR.GETBIT at bit number `c`. -/
theorem getBit_decoding_eq (hc : c < 2 ^ 64) (bs : List Byte) (i : NodeIdx) (s : State) : getBit (decoding c bs i s) =
    if 8 * s.paylen.toNat ≤ c then raise .formatError .pastPayload (decoding c bs i s)
    else if srcSample s c = false then raise .sourceUnavailable .none (sampled (decoding c bs i s))
    else if s.srcLen.toNat < s.poff.toNat + c / 8 + 1 then raise .formatError .truncPayload (sampled (decoding c bs i s))
    else .ok (payloadBitAt s c) (decoding (c + 1) bs i s) := by
  have hnext : { sampled (decoding c bs i s) with cur := (decoding c bs i s).cur + 1 } = decoding (c + 1) bs i s := by
    simp only [decoding, BitVec.ofNat_add, List.tail_drop]
    rfl
  have check := getBit_eq (decoding c bs i s)
  rw [srcSample_decoding, decoding_cur hc, hnext] at check
  exact check

theorem getBit_decoding (hin : payloadInside s) (hc : c < 8 * s.paylen.toNat) (hlt : c + 1 < 2 ^ 64) (hok : srcSample s c = true) :
    getBit (decoding c bs i s) = .ok (payloadBitAt s c) (decoding (c + 1) bs i s) := by
  rw [getBit_decoding_eq (by omega), if_neg (by omega), if_neg (by simp [hok]), if_neg (by omega)]

/-- A descent along a path whose bits can be read. -/
theorem descend_path (hin : payloadInside s) (n : Nat) (hp : follow s i p = some j) (hread : readable s c p) :
    descend (p.length + n) (decoding c bs i s) = descend n (decoding (c + p.length) bs j s) := by
  induction p generalizing c i with
  | nil =>
    cases hp
    rw [List.length_nil, Nat.zero_add, Nat.add_zero]
  | cons v p ih =>
    obtain ⟨⟨hc, hlt, hok, hv⟩, hrest⟩ := hread
    rw [follow] at hp
    split at hp
    · cases hp
    · next hleaf =>
      have hnode : ¬ isLeaf (decoding c bs i s) (decoding c bs i s).nodep = true := hleaf
      rw [List.length_cons, Nat.add_right_comm, descend, if_neg hnode, getBit_decoding hin hc hlt hok, andThen_ok, ← hv,
        ← Nat.add_assoc, Nat.add_right_comm]
      exact ih hp hrest

/-- The descent of a symbol begins at ROOT. -/
theorem decodeSymbol_internal (hroot : isLeaf s s.root = false) (c : Nat) (bs : List Byte) (i : NodeIdx) :
    decodeSymbol (decoding c bs i s) = andThen (descend (8 * s.paylen.toNat + 1) (decoding c bs s.root s)) fun _ v =>
      sinkWrite (nodeAt v v.nodep).sym v := by
  rw [decodeSymbol]
  exact if_neg (by rw [show isLeaf (decoding c bs i s) (decoding c bs i s).root = false from hroot]; decide)

/-- A symbol whose bits can be read: what is left is its append. -/
theorem decodeSymbol_path (hin : payloadInside s) (hroot : isLeaf s s.root = false) (hp : follow s s.root p = some j)
    (hj : isLeaf s j = true) (hread : readable s c p) (hlen : p.length ≤ 8 * s.paylen.toNat) (bs : List Byte) (i : NodeIdx) :
    decodeSymbol (decoding c bs i s) = sinkWrite (nodeAt s j).sym (decoding (c + p.length) bs j s) := by
  obtain ⟨n, hn⟩ : ∃ n, 8 * s.paylen.toNat + 1 = p.length + (n + 1) := ⟨8 * s.paylen.toNat - p.length, by omega⟩
  have hleaf : isLeaf (decoding (c + p.length) bs j s) (decoding (c + p.length) bs j s).nodep = true := hj
  rw [decodeSymbol_internal hroot, hn, descend_path hin (n + 1) hp hread, descend, if_pos hleaf, andThen_ok]
  rfl

/-- A symbol at an internal node of its path, when the read of the next bit aborts. -/
theorem decodeSymbol_stuck (hin : payloadInside s) (hroot : isLeaf s s.root = false) (hp : follow s s.root p = some j)
    (hj : isLeaf s j = false) (hread : readable s c p) (hlen : p.length ≤ 8 * s.paylen.toNat)
    (hbit : getBit (decoding (c + p.length) bs j s) = .abort t) (i : NodeIdx) :
    decodeSymbol (decoding c bs i s) = .abort t := by
  obtain ⟨n, hn⟩ : ∃ n, 8 * s.paylen.toNat + 1 = p.length + (n + 1) := ⟨8 * s.paylen.toNat - p.length, by omega⟩
  have hleaf : ¬ isLeaf (decoding (c + p.length) bs j s) (decoding (c + p.length) bs j s).nodep = true := by
    rw [show isLeaf (decoding (c + p.length) bs j s) (decoding (c + p.length) bs j s).nodep = false from hj]
    decide
  rw [decodeSymbol_internal hroot, hn, descend_path hin (n + 1) hp hread, descend, if_neg hleaf, hbit]
  rfl

/-- The append of a symbol. -/
theorem sinkWrite_decoding (b : Byte) (hok : snkSample s bs.length = true) :
    sinkWrite b (decoding c bs i s) = .ok () (decoding c (bs ++ [b]) i s) := by
  have hnow : snkSample (decoding c bs i s) 0 = true := (snkSample_appended bs s 0).trans hok
  rw [sinkWrite_good b hnow]
  simp only [decoding, ← appended_append]
  rfl

theorem sinkWrite_decoding_stops (b : Byte) (hbad : snkSample s bs.length = false) :
    sinkWrite b (decoding c bs i s) = .abort (takeAbort .sinkError .none (appendedThenBad [] (decoding c bs i s))) :=
  sinkWrite_bad b ((snkSample_appended bs s 0).trans hbad)

/-! ## The loop -/

/-- The bytes of symbols, each given as its path and its leaf. -/
abbrev symbolBytes (s : State) (ps : List (List Bool × NodeIdx)) : List Byte := ps.map fun q => (nodeAt s q.2).sym

theorem decodeLoop_more (n : Nat) (hc : c < s.bitcnt.toNat) :
    decodeLoop (n + 1) (decoding c bs i s) = andThen (decodeSymbol (decoding c bs i s)) fun _ v => decodeLoop n v := by
  have hlt : (decoding c bs i s).cur < (decoding c bs i s).bitcnt := by
    rw [BitVec.lt_def, decoding_cur (hc.trans s.bitcnt.isLt)]
    exact hc
  rw [decodeLoop, if_pos hlt]

/-- The loop of DECODE over complete symbols, each of which begins before BITCNT (spec/44_bit_reader_decoder.md R192). -/
theorem decodeLoop_symbols (hin : payloadInside s) (hroot : isLeaf s s.root = false) (n : Nat) (hsym : symbolsOk s ps)
    (hbegin : ∀ k < ps.length, c + (symbolBits (ps.take k)).length < s.bitcnt.toNat) (hread : readable s c (symbolBits ps))
    (hlen : c + (symbolBits ps).length ≤ 8 * s.paylen.toNat) (hsnk : ∀ k < ps.length, snkSample s (bs.length + k) = true) :
    ∃ j, decodeLoop (ps.length + n) (decoding c bs i s) =
      decodeLoop n (decoding (c + (symbolBits ps).length) (bs ++ symbolBytes s ps) j s) := by
  induction ps generalizing c bs i with
  | nil => exact ⟨i, by simp [symbolBits]⟩
  | cons q ps ih =>
    obtain ⟨hq, hps⟩ := List.forall_mem_cons.1 hsym
    have hbits : symbolBits (q :: ps) = q.1 ++ symbolBits ps := List.flatMap_cons
    rw [hbits, List.length_append] at hlen
    rw [hbits, readable_append] at hread
    have hnow : c < s.bitcnt.toNat := hbegin 0 (Nat.succ_pos _)
    have hok : snkSample s bs.length = true := hsnk 0 (Nat.succ_pos _)
    have hbegin' : ∀ k < ps.length, c + q.1.length + (symbolBits (ps.take k)).length < s.bitcnt.toNat := by
      intro k hk
      have hk' := hbegin (k + 1) (Nat.succ_lt_succ hk)
      rw [List.take_succ_cons, symbolBits, List.flatMap_cons, List.length_append, ← Nat.add_assoc] at hk'
      exact hk'
    have hsnk' : ∀ k < ps.length, snkSample s ((bs ++ [(nodeAt s q.2).sym]).length + k) = true := by
      intro k hk
      rw [List.length_append, List.length_singleton, Nat.add_assoc, Nat.add_comm 1]
      exact hsnk (k + 1) (Nat.succ_lt_succ hk)
    obtain ⟨j, hj⟩ := ih (i := q.2) hps hbegin' hread.2 (by omega) hsnk'
    refine ⟨j, ?_⟩
    rw [List.length_cons, Nat.add_right_comm, decodeLoop_more _ hnow, decodeSymbol_path hin hroot hq.1 hq.2 hread.1 (by omega),
      sinkWrite_decoding _ hok, andThen_ok, hj, hbits, List.length_append, Nat.add_assoc, List.append_assoc]
    rfl

/-- Every symbol has at least one bit when ROOT is internal. -/
theorem length_le_symbolBits (hroot : isLeaf s s.root = false) (hsym : symbolsOk s ps) : ps.length ≤ (symbolBits ps).length := by
  induction ps with
  | nil => exact Nat.zero_le _
  | cons q ps ih =>
    obtain ⟨⟨hq, hleaf⟩, hps⟩ := List.forall_mem_cons.1 hsym
    have hpos : q.1 ≠ [] := by
      intro h
      rw [h, follow, Option.some.injEq] at hq
      exact absurd (hroot.symm.trans (hq ▸ hleaf)) (by decide)
    have := List.length_pos_iff.2 hpos
    have := ih hps
    rw [symbolBits, List.flatMap_cons, List.length_append, List.length_cons]
    change _ ≤ _ + (symbolBits ps).length
    omega

end Symbols

/-! ## How DECODE aborts after complete symbols -/

section Aborts

variable {s u : State} {e : ErrKind} {c : SubCause} {ps : List (List Bool × NodeIdx)} {bs : List Byte}

/-- DECODE when its next symbol after `ps` aborts. -/
theorem exec_decode_aborts (hin : payloadInside s) (hroot : isLeaf s s.root = false) (hsym : symbolsOk s ps)
    (hbits : (symbolBits ps).length < s.bitcnt.toNat) (hread : readable s 0 (symbolBits ps))
    (hlen : (symbolBits ps).length ≤ 8 * s.paylen.toNat) (hsnk : snkReady s ps.length) {t : State}
    (h : ∀ i, decodeSymbol (decoding (symbolBits ps).length (symbolBytes s ps) i s) = .abort t) :
    exec .decode s = .next t := by
  have hcount := length_le_symbolBits hroot hsym
  have begins : ∀ k < ps.length, 0 + (symbolBits (ps.take k)).length < s.bitcnt.toNat := by
    intro k _
    have hsplit : symbolBits ps = symbolBits (ps.take k) ++ symbolBits (ps.drop k) := by
      rw [symbolBits, symbolBits, symbolBits, ← List.flatMap_append, List.take_append_drop]
    rw [hsplit, List.length_append] at hbits
    omega
  obtain ⟨n, hn⟩ : ∃ n, s.bitcnt.toNat = ps.length + (n + 1) := ⟨s.bitcnt.toNat - ps.length - 1, by omega⟩
  obtain ⟨j, hloop⟩ := decodeLoop_symbols (bs := []) (i := s.nodep) hin hroot (n + 1) hsym begins hread (by omega)
    (fun k hk => by rw [List.length_nil, Nat.zero_add]; exact hsnk k hk)
  rw [Nat.zero_add, List.nil_append, decodeLoop_more n hbits, h j, andThen_abort] at hloop
  rw [exec, execDecode, ← decoding_start, hn, hloop]
  rfl

/-- The obligation's form of an abort after the bytes `bs`. -/
theorem decode_aborted (h : exec .decode s = .next (takeAbort e c u)) (hsnk : u.snk = s.snk ++ bs)
    (hout : u.outcnt = (appended bs s).outcnt) (hfits : s.outcnt.toNat + bs.length < 2 ^ 64) :
    ∃ t, exec .decode s = .next t ∧ t.err = errCode e ∧ t.subErr = subCode c ∧ abortedFrom s t :=
  aborted_next bs h hsnk (hout ▸ appended_outcnt hfits)

/-! ## The lone leaf -/

/-- The state of DECODE after `k` copies of a lone leaf's byte (spec/44_bit_reader_decoder.md R193). -/
def copied (k : Nat) (s : State) : State :=
  { appended (List.replicate k (nodeAt s s.root).sym) s with cur := BitVec.ofNat 64 k }

theorem decodeSymbol_copied (k : Nat) (hroot : isLeaf s s.root = true) :
    decodeSymbol (copied k s) =
      andThen (sinkWrite (nodeAt s s.root).sym (copied k s)) fun _ v => .ok () { v with cur := v.cur + 1 } := by
  rw [decodeSymbol]
  exact if_pos hroot

theorem snkSample_copied (k : Nat) (s : State) : snkSample (copied k s) 0 = snkSample s k := by
  have h := snkSample_appended (List.replicate k (nodeAt s s.root).sym) s 0
  rw [List.length_replicate] at h
  exact h

theorem decodeSymbol_copied_good {k : Nat} (hroot : isLeaf s s.root = true) (hok : snkSample s k = true) :
    decodeSymbol (copied k s) = .ok () (copied (k + 1) s) := by
  rw [decodeSymbol_copied k hroot, sinkWrite_good _ ((snkSample_copied k s).trans hok), andThen_ok, copied, copied, List.replicate_succ',
    ← appended_append, BitVec.ofNat_add]
  rfl

theorem decodeSymbol_copied_bad {k : Nat} (hroot : isLeaf s s.root = true) (hbad : snkSample s k = false) :
    decodeSymbol (copied k s) = .abort (takeAbort .sinkError .none (appendedThenBad [] (copied k s))) := by
  rw [decodeSymbol_copied k hroot, sinkWrite_bad _ ((snkSample_copied k s).trans hbad), andThen_abort]

theorem decodeLoop_copied {k : Nat} (n : Nat) (hk : k < s.bitcnt.toNat) :
    decodeLoop (n + 1) (copied k s) = andThen (decodeSymbol (copied k s)) fun _ v => decodeLoop n v := by
  have hlt : (copied k s).cur < (copied k s).bitcnt := by
    rw [BitVec.lt_def, copied, BitVec.toNat_ofNat, Nat.mod_eq_of_lt (hk.trans s.bitcnt.isLt)]
    exact hk
  rw [decodeLoop, if_pos hlt]

/-- The loop of DECODE over the first `k` copies. -/
theorem decodeLoop_loneLeaf {k : Nat} (hroot : isLeaf s s.root = true) (hk : k ≤ s.bitcnt.toNat) (hready : snkReady s k) (n : Nat) :
    decodeLoop (k + n) { s with cur := 0 } = decodeLoop n (copied k s) := by
  induction k generalizing n with
  | zero =>
    rw [Nat.zero_add, copied, List.replicate_zero, appended_nil]
    rfl
  | succ k ih =>
    rw [Nat.add_assoc, Nat.add_comm 1, ih (by omega) (fun j hj => hready j (by omega)), decodeLoop_copied n hk,
      decodeSymbol_copied_good hroot (hready k k.lt_succ_self), andThen_ok]

theorem exec_decode_loneLeaf_stops {k : Nat} (hroot : isLeaf s s.root = true) (hk : k < s.bitcnt.toNat) (hready : snkReady s k)
    (hbad : snkSample s k = false) :
    exec .decode s = .next (takeAbort .sinkError .none (appendedThenBad [] (copied k s))) := by
  obtain ⟨n, hn⟩ : ∃ n, s.bitcnt.toNat = k + (n + 1) := ⟨s.bitcnt.toNat - k - 1, by omega⟩
  rw [exec, execDecode, hn, decodeLoop_loneLeaf hroot hk.le hready, decodeLoop_copied n hk, decodeSymbol_copied_bad hroot hbad]
  rfl

end Aborts

/-- Settles O39: DECODE runs through the complete symbols, and its next one aborts at a bit or at its append. -/
theorem decodePastPayload : Obligations.DecodePastPayload := by
  refine ⟨fun s ps hroot hsym hbits hsnk hfits => ⟨fun p i hp hi hpay hready => ?_, fun q hq hpay hready hbad => ?_⟩,
    fun s k hroot hk hready hbad hfits => ?_⟩
  · have hread := readable_of_payloadBegins hpay hready
    obtain ⟨hin, hlen, hlt, -⟩ := hpay
    rw [readable_append, Nat.zero_add] at hread
    rw [List.length_append] at hlen hlt
    have aborts {t : State} (hbit : getBit (decoding ((symbolBits ps).length + p.length) (symbolBytes s ps) i s) = .abort t) :
        exec .decode s = .next t :=
      exec_decode_aborts hin hroot hsym hbits hread.1 (by omega) hsnk
        (decodeSymbol_stuck hin hroot hp hi hread.2 (by omega) hbit)
    have check := getBit_decoding_eq hlt (symbolBytes s ps) i s
    rw [List.length_append]
    refine ⟨fun hend => ?_, fun hmore hbad => ?_⟩
    · rw [if_pos hend.ge] at check
      exact decode_aborted (bs := symbolBytes s ps) (aborts check) rfl rfl (by simpa using hfits)
    · rw [if_neg (not_le.2 hmore), if_pos hbad] at check
      exact decode_aborted (bs := symbolBytes s ps) (aborts check) rfl rfl (by simpa using hfits)
  · obtain ⟨hpath, hleaf⟩ := hq q (List.mem_singleton_self q)
    have hread := readable_of_payloadBegins hpay hready
    obtain ⟨hin, hlen, hlt, -⟩ := hpay
    rw [readable_append, Nat.zero_add] at hread
    rw [List.length_append] at hlen
    have stop (i : NodeIdx) := (decodeSymbol_path hin hroot hpath hleaf hread.2 (by omega) (symbolBytes s ps) i).trans
      (sinkWrite_decoding_stops _ (by rwa [List.length_map]))
    have h := exec_decode_aborts hin hroot hsym hbits hread.1 (by omega) hsnk stop
    refine decode_aborted (bs := symbolBytes s ps) h ?_ ?_ (by simpa using hfits)
    · exact List.append_nil _
    · exact BitVec.add_zero _
  · refine decode_aborted (bs := List.replicate k (nodeAt s s.root).sym) (exec_decode_loneLeaf_stops hroot hk hready hbad)
      ?_ ?_ (by simpa using hfits)
    · exact List.append_nil _
    · exact BitVec.add_zero _

end Sys2Proof.Proofs

namespace Sys2Proof.Proofs

open Sys2Proof.Machine Sys2Proof.Safety

/-! # The encoding (spec/30_encoding.md R91, R92, R98) -/

/-! ## The two fields -/

theorem formatOf_decodePhase : ∀ ph : BitVec 4, formatOf (decodePhase ph) = .phase := by decide

/-- The field `op` of a command is the code of the operation it selects. -/
theorem codeOf_decodeCmd : ∀ op : BitVec 2, codeOf (decodeCmd op) = op.toNat := by decide

/-- The field `ph` of a phase word is the code of the operation it selects. -/
theorem codeOf_decodePhase : ∀ ph : BitVec 4, codeOf (decodePhase ph) = ph.toNat := by decide

/-- The field `op` of a byte written to register 0 is its bits 1:0. -/
theorem cmdField_toNat (b : Byte) : cmdField b.toNat = BitVec.extractLsb' 0 2 b := by
  rw [cmdField, BitVec.extractLsb', Nat.shiftRight_zero]

/-! ## Bytes and operations -/

/-- The decoder undoes the encoder, whatever bytes follow. -/
theorem decode_encode (i : Instr) (rest : List Byte) : decode (formatOf i) (encode i ++ rest) = .instr i rest := by
  cases i <;> rfl

/-- The encoder gives back the byte of a phase word, of which no bit is free. -/
theorem encode_decodePhase {b : Byte} (hb : b.toNat < 16) : encode (decodePhase (BitVec.ofNat 4 b.toNat)) = [b] := by
  rw [encode, codeOf_decodePhase, BitVec.toNat_ofNat, Nat.mod_eq_of_lt hb, BitVec.ofNat_toNat, BitVec.setWidth_eq]

/-- All that the decoder can answer with an operation: it has read one byte, in the field of the format. -/
theorem decode_cases {f : Format} {bs rest : List Byte} {i : Instr} (h : decode f bs = .instr i rest) :
    ∃ b, bs = b :: rest ∧
      ((f = .cmd ∧ i = decodeCmd (cmdField b.toNat)) ∨
        (f = .phase ∧ b.toNat < 16 ∧ i = decodePhase (BitVec.ofNat 4 b.toNat))) := by
  cases bs with
  | nil => cases h
  | cons b bs =>
    cases f with
    | cmd =>
      cases h
      exact ⟨b, rfl, .inl ⟨rfl, rfl⟩⟩
    | phase =>
      rw [decode] at h
      split at h
      · next hb =>
        cases h
        exact ⟨b, rfl, .inr ⟨rfl, hb, rfl⟩⟩
      · cases h

/-- Settles O47: the encoder is undone, and each field is the code of the operation it selects. -/
theorem decodeEncodeAgree : Obligations.DecodeEncodeAgree := by
  refine ⟨decode_encode, fun f bs rest i h => ?_⟩
  obtain ⟨b, rfl, ⟨rfl, rfl⟩ | ⟨rfl, hb, rfl⟩⟩ := decode_cases h
  · refine ⟨(formatOf_decodeCmd _).symm, b, rfl, fun _ => ?_, nofun⟩
    rw [codeOf_decodeCmd, BitVec.ofNat_toNat, BitVec.setWidth_eq, cmdField_toNat]
  · exact ⟨(formatOf_decodePhase _).symm, b, rfl, nofun, fun _ => (encode_decodePhase hb).symm⟩

/-- Settles O46, by running the decoder on the eleven words and on the rejected one. -/
theorem decodeWords : Obligations.DecodeWords := by
  unfold Obligations.DecodeWords
  decide

/-- Settles O2: the two codes that no rule writes stop under their own name. -/
theorem unreachablePhasesStop : Obligations.UnreachablePhasesStop := fun _ => ⟨rfl, rfl⟩

end Sys2Proof.Proofs

namespace Sys2Proof.Proofs

open Sys2Proof.Machine Sys2Proof.Safety

/-! # The counts of HIST -/

/-- FT after the loop of HIST over `bs`, begun with a cleared table (spec/40_histogram.md R122). -/
theorem scanned_histStart_ft (bs : List Byte) (s : State) : (scanned histCount bs (histStart s)).ft =
    Vector.ofFn fun b : Fin 256 => BitVec.ofNat 64 (bs.count (BitVec.ofNat 8 b.val)) := by
  refine Vector.ext fun i hi => ?_
  have entry := ftGet_scanned_histCount bs (histStart s) (BitVec.ofNat 8 i)
  have index : (BitVec.ofNat 8 i).toNat = i := Nat.mod_eq_of_lt hi
  rw [ftGet_histStart, zero_add] at entry
  simp only [ftGet, index] at entry
  rw [entry, Vector.getElem_ofFn]

/-- The state after the loop of HIST over `bs`. -/
theorem scanned_histStart (bs : List Byte) (s : State) : scanned histCount bs (histStart s) = { s with
    ft := Vector.ofFn fun b : Fin 256 => BitVec.ofNat 64 (bs.count (BitVec.ofNat 8 b.val))
    idx := BitVec.ofNat 64 bs.length, srcOkNext := s.srcOkNext.drop bs.length } := by
  obtain ⟨ft, idx, next, hframe⟩ := scanned_histCount_frame bs (histStart s)
  obtain ⟨-, -, -, -, hnext, hidx⟩ := (hist_scans s.ct).scanned_keeps bs (histStart s)
  have hft := scanned_histStart_ft bs s
  rw [hframe] at hft hnext hidx ⊢
  obtain rfl : ft = _ := hft
  obtain rfl : next = _ := hnext
  obtain rfl : idx = _ := hidx.trans (BitVec.zero_add _)
  rfl

/-- Every byte of a list is one of the 256 values, so the counts of the values add up to the length. -/
theorem sum_count_bytes (bs : List Byte) : ∑ b : Fin 256, bs.count (BitVec.ofNat 8 b.val) = bs.length := by
  have hcount (b : Fin 256) : bs.count (BitVec.ofNat 8 b.val) = (bs.map BitVec.toFin).count b := by
    rw [← List.count_map_of_injective bs BitVec.toFin (fun _ _ => BitVec.eq_of_toFin_eq), BitVec.toFin_ofNat, Fin.ofNat_val_eq_self]
  calc ∑ b : Fin 256, bs.count (BitVec.ofNat 8 b.val)
      = ∑ b : Fin 256, (bs.map BitVec.toFin : Multiset (Fin 256)).count b := by
        simp only [hcount, Multiset.coe_count]
    _ = bs.length := by
        rw [Multiset.sum_count_eq_card fun _ _ => Finset.mem_univ _, Multiset.coe_card, List.length_map]

/-- Settles O6, by the state after the loop over the whole source. -/
theorem histCounts : Obligations.HistCounts := by
  intro s hready
  rw [exec_hist_ready hready, scanned_histStart, sourceBytes, length_readBytes, BitVec.ofNat_toNat, BitVec.setWidth_eq]
  rfl

/-- Settles O7: no count exceeds SRC_LEN, so no entry of FT wraps, and the counts add up to it. -/
theorem histSumIsLength : Obligations.HistSumIsLength := by
  intro s hready
  refine ⟨_, histCounts s hready, ?_⟩
  have hlen : (sourceBytes s).length = s.srcLen.toNat := length_readBytes _ _ _
  have hwrap (b : Byte) : (BitVec.ofNat 64 ((sourceBytes s).count b)).toNat = (sourceBytes s).count b :=
    Nat.mod_eq_of_lt ((List.count_le_length.trans hlen.le).trans_lt s.srcLen.isLt)
  rw [Vector.toList_ofFn, List.map_ofFn, List.sum_ofFn]
  simp only [Function.comp_apply, hwrap]
  rw [sum_count_bytes, hlen]

/-- Settles O9: reading a cleared table, and reading FT after one entry was written. -/
theorem histClrAndLoad : Obligations.HistClrAndLoad :=
  ⟨ftGet_histStart, fun s b c f => (ftGet_ftSet b c f s).trans (if_congr eq_comm rfl rfl)⟩

end Sys2Proof.Proofs

namespace Sys2Proof.Proofs

open Sys2Proof.Machine Sys2Proof.Safety

/-! # The tree builder: the priority order and RemoveMin -/

/-! ## The priority order (spec/41_tree_builder.md R141) -/

section Priority

variable {w v x : Weight} {i j k : Nat}

theorem before_iff : before w i v j = true ↔ w.toNat < v.toNat ∨ (w.toNat = v.toNat ∧ i < j) := by
  simp [before, BitVec.lt_def, ← BitVec.toNat_inj]

theorem before_irrefl (w : Weight) (i : Nat) : before w i w i = false :=
  Bool.eq_false_iff.2 fun h => by have := before_iff.1 h; omega

theorem before_trans (h : before w i v j = true) (h' : before v j x k = true) : before w i x k = true := by
  rw [before_iff] at *
  omega

/-- Two pairs are the same, or related one way. -/
theorem before_total (w v : Weight) (i j : Nat) : (w, i) = (v, j) ∨ before w i v j = true ∨ before v j w i = true := by
  simp only [Prod.mk.injEq, ← BitVec.toNat_inj, before_iff]
  omega

/-- What precedes weighs no more. -/
theorem weight_le_of_precedes {s : State} (h : precedes s i j = true) : (entry s i).wt.toNat ≤ (entry s j).wt.toNat := by
  have := before_iff.1 h
  simp only [weightAt_eq_entry] at this
  omega

/-- The order of two indexes depends on their entries alone. -/
theorem precedes_congr {s t : State} (hi : entry t i = entry s i) (hj : entry t j = entry s j) :
    precedes t i j = precedes s i j := by
  simp only [precedes, weightAt_eq_entry, hi, hj]

theorem precedes_asymm {s : State} (h : precedes s i j = true) : precedes s j i = false :=
  Bool.eq_false_iff.2 fun h' => Bool.eq_false_iff.1 (before_irrefl _ _) (before_trans h h')

end Priority

/-- Settles O11: the order is that of pairs, the weight first. -/
theorem priorityIsStrictTotalOrder : Obligations.PriorityIsStrictTotalOrder := by
  refine fun s => ⟨fun i j => ?_, fun i => before_irrefl _ i, fun i j k => before_trans, fun i j hne => ?_⟩
  · rw [precedes, before_iff, BitVec.lt_def, ← BitVec.toNat_inj]
    rfl
  · exact (before_total _ _ i j).resolve_left fun h => hne (congrArg Prod.snd h)

/-! ## The search for the least active node -/

section Least

/-- Only an index of the arena can be active. -/
theorem activeAt_lt {s : State} {k : Nat} (h : activeAt s k = true) : k < 511 := by
  by_contra hge
  simp [activeAt, not_lt.1 hge] at h

/-- The index and the weight of each active entry, the first entry having index `i`. -/
def candidates : List (Bool × Node) → Nat → List (Nat × Weight)
  | [], _ => []
  | (false, _) :: es, i => candidates es (i + 1)
  | (true, n) :: es, i => (i, n.wt) :: candidates es (i + 1)

/-- `c` is `d`, or comes before it. -/
abbrev notAfter (c d : Nat × Weight) : Prop := d = c ∨ before c.2 c.1 d.2 d.1 = true

theorem notAfter.trans {c d e : Nat × Weight} (h : notAfter c d) (h' : notAfter d e) : notAfter c e := by
  obtain rfl | h := h
  · exact h'
  · obtain rfl | h' := h'
    · exact .inr h
    · exact .inr (before_trans h h')

theorem notAfter_total (c d : Nat × Weight) : notAfter c d ∨ notAfter d c := by
  obtain h | h | h := before_total c.2 d.2 c.1 d.1
  · simp only [Prod.mk.injEq] at h
    exact .inl (.inl (Prod.ext h.2.symm h.1.symm))
  · exact .inl (.inr h)
  · exact .inr (.inr h)

/-- The search goes on from `best`: it finds the least of `best` and the candidates. -/
theorem leastFrom_best (es : List (Bool × Node)) (i : Nat) (best : Nat × Weight) :
    ∃ c ∈ best :: candidates es i, leastFrom es i (some best) = some c.1 ∧ ∀ d ∈ best :: candidates es i, notAfter c d := by
  induction es generalizing i best with
  | nil => exact ⟨best, by simp [candidates], rfl, fun d hd => .inl (List.mem_singleton.1 hd)⟩
  | cons e es ih =>
    obtain ⟨_ | _, n⟩ := e
    · exact ih (i + 1) best
    · obtain ⟨new, old, hstep, hmem, hle⟩ : ∃ new old, leastFrom ((true, n) :: es) i (some best) =
          leastFrom es (i + 1) (some new) ∧ [new, old].Perm [best, (i, n.wt)] ∧ notAfter new old := by
        rw [leastFrom]
        by_cases hb : before n.wt i best.2 best.1 = true
        · exact ⟨(i, n.wt), best, if_pos hb, .swap _ _ _, .inr hb⟩
        · refine ⟨best, (i, n.wt), if_neg hb, .refl _, ?_⟩
          obtain h | h | h := notAfter_total best (i, n.wt)
          · exact h
          · exact .inl h.symm
          · exact absurd h hb
      obtain ⟨c, hc, hfound, hleast⟩ := ih (i + 1) new
      have hall : (new :: old :: candidates es (i + 1)).Perm (best :: candidates ((true, n) :: es) i) :=
        hmem.append_right (candidates es (i + 1))
      refine ⟨c, hall.subset ?_, hstep.trans hfound, fun d hd => ?_⟩
      · rcases List.mem_cons.1 hc with rfl | hc
        · simp
        · simp [hc]
      · rcases List.mem_cons.1 (hall.symm.subset hd) with rfl | hd
        · exact hleast _ (by simp)
        · rcases List.mem_cons.1 hd with rfl | hd
          · exact (hleast new (by simp)).trans hle
          · exact hleast d (by simp [hd])

/-- The search from the start: it finds the least candidate, if there is one. -/
theorem leastFrom_none (es : List (Bool × Node)) (i : Nat) :
    (candidates es i = [] ∧ leastFrom es i none = none) ∨
    ∃ c ∈ candidates es i, leastFrom es i none = some c.1 ∧ ∀ d ∈ candidates es i, notAfter c d := by
  induction es generalizing i with
  | nil => exact .inl ⟨rfl, rfl⟩
  | cons e es ih =>
    obtain ⟨_ | _, n⟩ := e
    · exact ih (i + 1)
    · exact .inr (leastFrom_best es (i + 1) (i, n.wt))

theorem mem_candidates (es : List (Bool × Node)) (i : Nat) (c : Nat × Weight) :
    c ∈ candidates es i ↔ ∃ k n, es[k]? = some (true, n) ∧ c = (i + k, n.wt) := by
  induction es generalizing i with
  | nil => simp [candidates]
  | cons e es ih =>
    have split : (∃ k n, (e :: es)[k]? = some (true, n) ∧ c = (i + k, n.wt)) ↔
        (∃ n, e = (true, n) ∧ c = (i, n.wt)) ∨ ∃ k n, es[k]? = some (true, n) ∧ c = (i + 1 + k, n.wt) := by
      constructor
      · rintro ⟨_ | k, n, hk, hc⟩
        · exact .inl ⟨n, by simpa using hk, hc⟩
        · exact .inr ⟨k, n, hk, by rw [hc, Nat.add_right_comm]; rfl⟩
      · rintro (⟨n, rfl, hc⟩ | ⟨k, n, hk, hc⟩)
        · exact ⟨0, n, rfl, hc⟩
        · exact ⟨k + 1, n, hk, by rw [hc, Nat.add_right_comm]; rfl⟩
    rw [split, ← ih]
    obtain ⟨_ | _, n⟩ := e <;> simp [candidates]

/-- The candidates of the arena are the active nodes with their weights. -/
theorem mem_candidates_arena (s : State) (c : Nat × Weight) :
    c ∈ candidates (s.active.toList.zip s.node.toList) 0 ↔ activeAt s c.1 = true ∧ c.2 = (entry s c.1).wt := by
  rw [mem_candidates]
  constructor
  · rintro ⟨k, n, hk, rfl⟩
    obtain ⟨ha, hn⟩ := List.getElem?_zip_eq_some.1 hk
    simp only [Vector.getElem?_toList] at ha hn
    simp [activeAt, entry, ha, hn]
  · rintro ⟨ha, hw⟩
    have hlt := activeAt_lt ha
    refine ⟨c.1, entry s c.1, List.getElem?_zip_eq_some.2 ⟨?_, ?_⟩, by rw [Nat.zero_add, ← hw]⟩
    · simpa [activeAt, hlt] using ha
    · simp [entry, hlt]

end Least

/-! ## RemoveMin (spec/41_tree_builder.md R143) -/

section RemoveMin

variable {s t : State} {m : NodeIdx} {k : Nat}

/-- `m` is the active node that precedes every other. -/
def IsLeast (s : State) (m : Nat) : Prop :=
  activeAt s m = true ∧ ∀ j, activeAt s j = true → j ≠ m → precedes s m j = true

/-- The least active node is unique, because the order is total. -/
theorem IsLeast.unique {m m' : Nat} (h : IsLeast s m) (h' : IsLeast s m') : m = m' := by
  by_contra hne
  exact Bool.eq_false_iff.1 (precedes_asymm (h.2 m' h'.1 (Ne.symm hne))) (h'.2 m h.1 hne)

/-- The state after `m` was taken out of the active set. -/
def deactivated (m : NodeIdx) (s : State) : State :=
  { s with active := setEntry s.active m.toNat false, nact := s.nact - 1 }

theorem activeAt_deactivated (m : NodeIdx) (s : State) (j : Nat) :
    activeAt (deactivated m s) j = (activeAt s j && decide (j ≠ m.toNat)) := by
  unfold activeAt deactivated
  rw [getElem?_setEntry]
  by_cases hj : m.toNat = j
  · subst hj
    by_cases hlt : m.toNat < 511 <;> simp [hlt]
  · simp [hj, Ne.symm hj]

/-- RemoveMin answers the least active node, and stops when no node is active. -/
theorem removeMin_cases (s : State) :
    ((∀ k, activeAt s k = false) ∧ removeMin s = .fault .noActiveNode) ∨
    ∃ m : NodeIdx, removeMin s = .ok m (deactivated m s) ∧ IsLeast s m.toNat := by
  have mem := mem_candidates_arena s
  obtain ⟨hnil, hnone⟩ | ⟨c, hc, hfound, hleast⟩ := leastFrom_none (s.active.toList.zip s.node.toList) 0
  · refine .inl ⟨fun k => Bool.eq_false_iff.2 fun hk => ?_, by rw [removeMin, leastActive, hnone]⟩
    exact List.not_mem_nil (hnil ▸ (mem (k, (entry s k).wt)).2 ⟨hk, rfl⟩)
  · obtain ⟨hact, hw⟩ := (mem c).1 hc
    have hm : (BitVec.ofNat 9 c.1).toNat = c.1 := Nat.mod_eq_of_lt ((activeAt_lt hact).trans (by decide))
    refine .inr ⟨BitVec.ofNat 9 c.1, by rw [removeMin, leastActive, hfound, deactivated, hm], hm.symm ▸ ⟨hact, fun j hj hne => ?_⟩⟩
    obtain h | h := hleast (j, (entry s j).wt) ((mem _).2 ⟨hj, rfl⟩)
    · exact absurd (congrArg Prod.fst h) hne
    · rw [hw] at h
      exact h

theorem removeMin_ok (h : ∃ k, activeAt s k = true) :
    ∃ m : NodeIdx, removeMin s = .ok m (deactivated m s) ∧ IsLeast s m.toNat := by
  obtain ⟨k, hk⟩ := h
  exact (removeMin_cases s).resolve_left fun hno => Bool.eq_false_iff.1 (hno.1 k) hk

theorem removeMin_eq_ok (h : removeMin s = .ok m t) : IsLeast s m.toNat ∧ t = deactivated m s := by
  obtain ⟨-, hfault⟩ | ⟨m', hm', hleast⟩ := removeMin_cases s
  · cases hfault.symm.trans h
  · obtain ⟨rfl, rfl⟩ := Res.ok.inj (hm'.symm.trans h)
    exact ⟨hleast, rfl⟩

end RemoveMin

/-- Settles O12, by the search over the active entries. -/
theorem removeMinTakesLeast : Obligations.RemoveMinTakesLeast := by
  intro s h
  obtain ⟨m, hm, hact, hleast⟩ := removeMin_ok h
  exact ⟨m, _, hm, hact, hleast, rfl, activeAt_deactivated m s⟩

end Sys2Proof.Proofs

namespace Sys2Proof.Proofs

open Sys2Proof.Machine Sys2Proof.Safety

/-! # LEAVES (spec/41_tree_builder.md R142) -/

section Leaves

variable {s t u : State} {i : Nat}

/-- The byte values below `i` with a non-zero FT entry. -/
def presentBelow (s : State) (i : Nat) : List Byte :=
  ((List.range i).map (BitVec.ofNat 8)).filter fun b => ftGet s b != 0

theorem presentBelow_all (s : State) : presentBelow s 256 = presentBytes s := rfl

theorem presentBelow_succ (s : State) (i : Nat) :
    presentBelow s (i + 1) = presentBelow s i ++ if ftGet s (BitVec.ofNat 8 i) = 0 then [] else [BitVec.ofNat 8 i] := by
  rw [presentBelow, List.range_succ, List.map_append, List.filter_append, ← presentBelow, List.map_singleton, List.filter_singleton]
  by_cases h : ftGet s (BitVec.ofNat 8 i) = 0 <;> simp [h]

theorem length_presentBelow_le (s : State) (i : Nat) : (presentBelow s i).length ≤ i := by
  refine (List.length_filter_le _ _).trans ?_
  rw [List.length_map, List.length_range]

/-- The leaf LEAVES makes of a byte value. -/
abbrev leafOf (s : State) (b : Byte) : Node := leafNode b (ftGet s b)

/-- `u` is the state of LEAVES, begun in `s`, when it has made leaves of the byte values `bs` and SYMI is `i`. -/
structure Rowing (s : State) (bs : List Byte) (i : Nat) (u : State) : Prop where
  frame : ∃ node active, u = { s with
    node := node, active := active, rootValid := false, nnode := BitVec.ofNat 9 bs.length, nact := BitVec.ofNat 9 bs.length,
    symi := BitVec.ofNat 9 i }
  row : ∀ k (h : k < bs.length), entry u k = leafOf s bs[k]
  rest : ∀ k, bs.length ≤ k → entry u k = entry s k
  active : ∀ k, activeAt u k = decide (k < bs.length)

theorem Rowing.start (s : State) : Rowing s [] 0 (leavesInit s) where
  frame := ⟨s.node, Vector.replicate 511 false, rfl⟩
  row k h := absurd h (Nat.not_lt_zero k)
  rest _ _ := rfl
  active k := by by_cases hk : k < 511 <;> simp [activeAt, leavesInit, hk]

/-- SYMI and the counters go up by one. -/
theorem ofNat9_succ (k : Nat) : BitVec.ofNat 9 k + 1 = BitVec.ofNat 9 (k + 1) := (BitVec.ofNat_add k 1).symm

/-- A byte value that does not occur is passed over. -/
theorem Rowing.skip {bs : List Byte} (h : Rowing s bs i u) : Rowing s bs (i + 1) { u with symi := u.symi + 1 } := by
  obtain ⟨⟨node, active, rfl⟩, hrow, hrest, hactive⟩ := h
  exact ⟨⟨node, active, by simp only [ofNat9_succ]⟩, hrow, hrest, hactive⟩

/-- A byte value that occurs gets the next leaf. -/
theorem Rowing.alloc {bs : List Byte} (h : Rowing s bs i u) (b : Byte) (hlen : bs.length < 511) :
    Rowing s (bs ++ [b]) i (allocNode (leafOf s b) u) := by
  have hcount : u.nnode.toNat = bs.length := by
    obtain ⟨node, active, rfl⟩ := h.frame
    exact Nat.mod_eq_of_lt (by omega)
  refine ⟨?_, fun k hk => ?_, fun k hk => ?_, fun k => ?_⟩
  · obtain ⟨node, active, rfl⟩ := h.frame
    exact ⟨_, _, by rw [allocNode, List.length_append, List.length_singleton]; simp only [ofNat9_succ]; rfl⟩
  · rw [List.length_append, List.length_singleton] at hk
    rw [entry_allocNode, hcount, List.getElem_append]
    by_cases hlt : k < bs.length
    · rw [if_neg (by omega), h.row k hlt, dif_pos hlt]
    · rw [if_pos (by omega), dif_neg hlt, List.getElem_singleton]
  · rw [List.length_append, List.length_singleton] at hk
    rw [entry_allocNode, hcount, if_neg (by omega), h.rest k (by omega)]
  · rw [activeAt_allocNode, hcount, h.active, List.length_append, List.length_singleton]
    by_cases hk : k = bs.length
    · rw [if_pos ⟨hk, by omega⟩, decide_eq_true (by omega)]
    · rw [if_neg (by tauto)]
      exact decide_eq_decide.2 (by omega)

theorem Rowing.step (h : Rowing s (presentBelow s i) i u) (hi : i < 256) :
    Rowing s (presentBelow s (i + 1)) (i + 1) (leavesStep u) := by
  have hlen := length_presentBelow_le s i
  have hbyte : u.symi.setWidth 8 = BitVec.ofNat 8 i := by
    obtain ⟨node, active, rfl⟩ := h.frame
    apply BitVec.eq_of_toNat_eq
    simp only [BitVec.toNat_setWidth, BitVec.toNat_ofNat]
    omega
  have hft : ftGet u = ftGet s := by
    obtain ⟨node, active, rfl⟩ := h.frame
    rfl
  rw [leavesStep, hbyte, hft, presentBelow_succ]
  by_cases h0 : ftGet s (BitVec.ofNat 8 i) = 0
  · simp only [h0, if_true, List.append_nil]
    exact h.skip
  · simp only [h0, if_false]
    exact (h.alloc _ (by omega)).skip

theorem Rowing.loop (n : Nat) (h : Rowing s (presentBelow s i) i u) (hi : i + n ≤ 256) :
    Rowing s (presentBelow s (i + n)) (i + n) (leavesLoop n u) := by
  induction n generalizing i u with
  | zero => exact h
  | succ n ih =>
    have := ih (h.step (by omega)) (by omega)
    rwa [Nat.add_right_comm, Nat.add_assoc] at this

/-- The state after the loop of LEAVES. -/
theorem leavesLoop_rows (s : State) : Rowing s (presentBytes s) 256 (leavesLoop 256 (leavesInit s)) :=
  (Rowing.start s).loop 256 le_rfl

theorem leavesCount_eq (u : State) :
    leavesCount u = { u with nchar := if u.mode = .compress then u.nnode else u.nchar } := by
  unfold leavesCount
  split
  · next h => rw [if_pos h]
  · next h => rw [if_neg (by simp [h])]

/-- LEAVES always answers a next state: the row of leaves, counted. -/
theorem exec_leaves (s : State) : ∃ u, Rowing s (presentBytes s) 256 u ∧
    exec .leaves s = .next (toPhase .merge { u with nchar := if s.mode = .compress then u.nnode else s.nchar }) := by
  have rows := leavesLoop_rows s
  refine ⟨_, rows, ?_⟩
  obtain ⟨node, active, hu⟩ := rows.frame
  rw [exec, execLeaves, leavesCount_eq, hu]

/-! ## What LEAVES leaves for MERGE -/

theorem mem_presentBytes (s : State) (b : Byte) : b ∈ presentBytes s ↔ ftGet s b ≠ 0 := by
  have hb : b ∈ (List.range 256).map (BitVec.ofNat 8) :=
    List.mem_map.2 ⟨b.toNat, List.mem_range.2 b.isLt, (BitVec.ofNat_toNat 8 b).trans (BitVec.setWidth_eq b)⟩
  rw [presentBytes, List.mem_filter, bne_iff_ne, and_iff_right hb]

theorem presentBytes_ascending (s : State) : (presentBytes s).Pairwise fun b c => b.toNat < c.toNat := by
  refine List.Pairwise.filter _ (List.pairwise_map.2 (List.pairwise_lt_range.imp_of_mem fun {a c} ha hc h => ?_))
  rw [List.mem_range] at ha hc
  simpa [Nat.mod_eq_of_lt ha, Nat.mod_eq_of_lt hc] using h

/-- The row LEAVES made is what MERGE needs (spec/41_tree_builder.md R142, R147). -/
theorem Rowing.ready (h : Rowing s (presentBytes s) 256 u) :
    leavesReady u (presentBytes s).length ∧ leavesCover u (presentBytes s).length := by
  obtain ⟨⟨node, active, hu⟩, hrow, -, hactive⟩ := h
  have hlen := length_presentBytes_le s
  have hcount : (BitVec.ofNat 9 (presentBytes s).length).toNat = (presentBytes s).length :=
    Nat.mod_eq_of_lt (by omega)
  have hft : ftGet u = ftGet s := by rw [hu]; rfl
  refine ⟨⟨hlen, by rw [hu]; exact hcount, by rw [hu]; exact hcount, fun k _ => hactive k, fun k hk => ?_, fun k hk j hj => ?_⟩,
    fun b => ?_⟩
  · rw [hrow k hk]
    refine ⟨rfl, ?_⟩
    have := (ftGet s (presentBytes s)[k]).isLt
    simp only [leafNode, BitVec.toNat_setWidth]
    omega
  · rw [hrow k hk, hrow j (hj.trans hk)]
    exact List.pairwise_iff_getElem.1 (presentBytes_ascending s) j k (hj.trans hk) hk hj
  · rw [hft, ← mem_presentBytes, List.mem_iff_getElem]
    constructor
    · rintro ⟨k, hk, hb⟩
      exact ⟨k, List.mem_range.2 hk, by rw [hrow k hk]; exact hb⟩
    · rintro ⟨k, hk, hb⟩
      rw [List.mem_range] at hk
      rw [hrow k hk] at hb
      exact ⟨k, hk, hb⟩

end Leaves

/-- Settles O10, by induction on the byte values gone through. -/
theorem leavesBuildsRow : Obligations.LeavesBuildsRow := by
  intro s
  obtain ⟨u, ⟨⟨node, active, rfl⟩, hrow, hrest, hactive⟩, h⟩ := exec_leaves s
  exact ⟨_, h, rfl, hrow, hrest, hactive⟩

end Sys2Proof.Proofs

namespace Sys2Proof.Proofs

open Sys2Proof.Machine Sys2Proof.Safety

/-! # MERGE (spec/41_tree_builder.md R144 to R151) -/

/-! ## One merge -/

section Merge

variable {s t u : State} {a b : NodeIdx} {n i j k : Nat}

/-- `t` is `u` after one merge, of `a` removed first and `b` removed second. -/
structure Merged (a b : NodeIdx) (u t : State) : Prop where
  first : IsLeast u a.toNat
  second : IsLeast (deactivated a u) b.toNat
  eq : t = allocNode (mergedNode u a b) (deactivated b (deactivated a u))

theorem mergeStep_eq_ok {x : Unit} (h : mergeStep u = .ok x t) : ∃ a b, Merged a b u t := by
  obtain ⟨a, v, ha, h⟩ := (andThen_eq_ok _ _ _ _).1 h
  obtain ⟨b, w, hb, h⟩ := (andThen_eq_ok _ _ _ _).1 h
  obtain ⟨hfirst, rfl⟩ := removeMin_eq_ok ha
  obtain ⟨hsecond, rfl⟩ := removeMin_eq_ok hb
  exact ⟨a, b, hfirst, hsecond, (Res.ok.inj h).2.symm⟩

/-- Two active nodes are enough for a merge. -/
theorem mergeStep_ok (hi : activeAt u i = true) (hj : activeAt u j = true) (hne : i ≠ j) :
    ∃ a b t, mergeStep u = .ok () t ∧ Merged a b u t := by
  obtain ⟨a, ha, hfirst⟩ := removeMin_ok ⟨i, hi⟩
  have hmore : ∃ k, activeAt (deactivated a u) k = true := by
    by_cases hia : i = a.toNat
    · exact ⟨j, by rw [activeAt_deactivated, hj, Bool.true_and, decide_eq_true (hia ▸ hne.symm)]⟩
    · exact ⟨i, by rw [activeAt_deactivated, hi, Bool.true_and, decide_eq_true hia]⟩
  obtain ⟨b, hb, hsecond⟩ := removeMin_ok hmore
  refine ⟨a, b, _, ?_, hfirst, hsecond, rfl⟩
  rw [mergeStep, ha, andThen_ok, hb]
  rfl

namespace Merged

theorem ne (h : Merged a b u t) : b.toNat ≠ a.toNat := by
  have hb := h.second.1
  rw [activeAt_deactivated, Bool.and_eq_true, decide_eq_true_eq] at hb
  exact hb.2

theorem active_second (h : Merged a b u t) : activeAt u b.toNat = true := by
  have hb := h.second.1
  rw [activeAt_deactivated, Bool.and_eq_true] at hb
  exact hb.1

theorem first_precedes (h : Merged a b u t) : precedes u a.toNat b.toNat = true := h.first.2 _ h.active_second h.ne

/-- The node removed second precedes all that stay. -/
theorem precedes_rest (h : Merged a b u t) (hk : activeAt u k = true) (ha : k ≠ a.toNat) (hb : k ≠ b.toNat) :
    precedes u b.toNat k = true :=
  h.second.2 k (by rw [activeAt_deactivated, hk, Bool.true_and, decide_eq_true ha]) hb

theorem entry_eq (h : Merged a b u t) (hlt : u.nnode.toNat < 511) (k : Nat) :
    entry t k = if k = u.nnode.toNat then mergedNode u a b else entry u k := by
  have hnew : (k = u.nnode.toNat ∧ k < 511) ↔ k = u.nnode.toNat := by omega
  have alloc := entry_allocNode (mergedNode u a b) (deactivated b (deactivated a u)) k
  simp only [h.eq]
  exact alloc.trans (if_congr hnew rfl rfl)

/-- A merge changes no entry below NNODE. -/
theorem entry_below (h : Merged a b u t) (hlt : u.nnode.toNat < 511) (hk : k < u.nnode.toNat) :
    entry t k = entry u k := by
  rw [h.entry_eq hlt, if_neg hk.ne]

theorem active_iff (h : Merged a b u t) (hlt : u.nnode.toNat < 511) (k : Nat) : activeAt t k = true ↔
    k = u.nnode.toNat ∨ (activeAt u k = true ∧ k ≠ a.toNat ∧ k ≠ b.toNat) := by
  rw [h.eq, activeAt_allocNode, activeAt_deactivated, activeAt_deactivated]
  change (if k = u.nnode.toNat ∧ k < 511 then _ else _) = true ↔ _
  by_cases hk : k = u.nnode.toNat
  · simp [hk, hlt]
  · simp [hk, and_assoc]

theorem nnode (h : Merged a b u t) (hlt : u.nnode.toNat < 511) : t.nnode.toNat = u.nnode.toNat + 1 := by
  rw [h.eq]
  exact BitVec.toNat_add_of_lt (y := 1) (show u.nnode.toNat + 1 < 2 ^ 9 by omega)

theorem nact (h : Merged a b u t) (h2 : 2 ≤ u.nact.toNat) : t.nact.toNat = u.nact.toNat - 1 := by
  have hcalc : t.nact = u.nact - 1 := by
    rw [h.eq]
    exact sub_add_cancel (u.nact - 1) 1
  have hle : (1 : BitVec 9).toNat ≤ u.nact.toNat := le_trans (by decide) h2
  rw [hcalc, BitVec.toNat_sub_of_le (BitVec.le_def.2 hle)]
  rfl

end Merged

/-! ## The forest in the middle of MERGE -/

/-- The active nodes. -/
def activeSet (u : State) : Finset Nat := (Finset.range 511).filter fun k => activeAt u k = true

theorem mem_activeSet : k ∈ activeSet u ↔ activeAt u k = true := by
  rw [activeSet, Finset.mem_filter, Finset.mem_range]
  exact and_iff_right_of_imp activeAt_lt

/-- The weight of the whole forest: of its roots, the active nodes. -/
def forestWeight (u : State) : Nat := ∑ k ∈ activeSet u, (entry u k).wt.toNat

theorem isParent_congr (hk : entry t k = entry u k) : isParent t k i ↔ isParent u k i := by
  simp only [isParent, hk]

/-- How many internal nodes have `i` as a child. -/
def parentCount (n : Nat) (u : State) (i : Nat) : Nat :=
  (List.range u.nnode.toNat).countP fun k => decide (n ≤ k ∧ isParent u k i)

/-- Entry `k` is an internal node as R144 and R148 make it. -/
structure Inner (u : State) (k : Nat) : Prop where
  leaf : (entry u k).leaf = false
  zero : (entry u k).zero.toNat < k
  one : (entry u k).one.toNat < k
  ne : (entry u k).zero ≠ (entry u k).one
  weight : (entry u k).wt.toNat = (entry u (entry u k).zero.toNat).wt.toNat + (entry u (entry u k).one.toNat).wt.toNat
  precedes : precedes u (entry u k).zero.toNat (entry u k).one.toNat = true

/-- The arena between two merges (spec/41_tree_builder.md R145, R147, R148, R150): a forest over `n` leaves whose roots are the active
nodes. -/
structure Forest (n : Nat) (u : State) : Prop where
  few : n ≤ 256
  grown : n ≤ u.nnode.toNat
  size : u.nnode.toNat + u.nact.toNat = 2 * n
  count : (activeSet u).card = u.nact.toNat
  below : ∀ k, activeAt u k = true → k < u.nnode.toNat
  newest : 1 ≤ n → activeAt u (u.nnode.toNat - 1) = true
  leaves : leafRow u n
  inner : ∀ k, n ≤ k → k < u.nnode.toNat → Inner u k
  parents : ∀ i < u.nnode.toNat, parentCount n u i = if activeAt u i then 0 else 1
  light : forestWeight u < 2 ^ 72

/-- The active nodes are the leaves. -/
theorem active_of_leavesReady (h : leavesReady s n) : activeAt s k = true ↔ k < n := by
  obtain ⟨hfew, -, -, hactive, -⟩ := h
  refine ⟨fun hk => ?_, fun hk => ?_⟩
  · simpa [hk] using hactive k (activeAt_lt hk)
  · simpa [hk] using hactive k (by omega)

/-- The leaves alone are a forest. -/
theorem forest_of_leavesReady (h : leavesReady s n) : Forest n s := by
  have hact (k : Nat) : activeAt s k = true ↔ k < n := active_of_leavesReady h
  have hset : activeSet s = Finset.range n := Finset.ext fun k => by rw [mem_activeSet, Finset.mem_range, hact]
  obtain ⟨hfew, hnnode, hnact, -, hrow⟩ := h
  refine ⟨hfew, hnnode.ge, by omega, by rw [hset, Finset.card_range, hnact], fun k hk => hnnode ▸ (hact k).1 hk,
    fun h1 => (hact _).2 (by omega), hrow, fun k hk hlt => by omega, fun i hi => ?_, ?_⟩
  · rw [if_pos ((hact i).2 (hnnode ▸ hi)), parentCount, List.countP_eq_zero]
    intro k hk
    rw [List.mem_range] at hk
    simp
    omega
  · have each : ∀ k ∈ Finset.range n, (entry s k).wt.toNat ≤ 2 ^ 64 - 1 := fun k hk =>
      Nat.le_sub_one_of_lt (hrow.1 k (Finset.mem_range.1 hk)).2
    have total := Finset.sum_le_card_nsmul _ _ _ each
    rw [Finset.card_range, smul_eq_mul] at total
    rw [forestWeight, hset]
    calc _ ≤ n * (2 ^ 64 - 1) := total
      _ ≤ 256 * (2 ^ 64 - 1) := Nat.mul_le_mul_right _ hfew
      _ < 2 ^ 72 := by decide

/-- Two nodes or more are active while NACT says so. -/
theorem Forest.mergeStep_ok (h : Forest n u) (h2 : 2 ≤ u.nact.toNat) : ∃ a b t, mergeStep u = .ok () t ∧ Merged a b u t := by
  obtain ⟨i, hi, j, hj, hne⟩ := Finset.one_lt_card.1 (h.count ▸ h2)
  exact Proofs.mergeStep_ok (mem_activeSet.1 hi) (mem_activeSet.1 hj) hne

/-! A merge keeps the forest. -/

section Keeps

variable (hf : Forest n u) (h2 : 2 ≤ u.nact.toNat) (h : Merged a b u t)

include hf h2 in
theorem Forest.nnode_lt : u.nnode.toNat < 511 := by
  have := hf.size
  have := hf.few
  omega

include hf in
theorem Forest.roots_fresh : u.nnode.toNat ∉ ((activeSet u).erase a.toNat).erase b.toNat := fun hm =>
  (hf.below _ (mem_activeSet.1 (Finset.mem_of_mem_erase (Finset.mem_of_mem_erase hm)))).ne rfl

include h in
theorem Merged.second_mem : b.toNat ∈ (activeSet u).erase a.toNat :=
  Finset.mem_erase.2 ⟨h.ne, mem_activeSet.2 h.active_second⟩

include h in
/-- The weights of the two merged nodes and of the others make up the forest. -/
theorem Merged.weight_split : forestWeight u = (entry u a.toNat).wt.toNat + ((entry u b.toNat).wt.toNat +
    ∑ k ∈ ((activeSet u).erase a.toNat).erase b.toNat, (entry u k).wt.toNat) := by
  rw [forestWeight, Finset.add_sum_erase _ (fun k => (entry u k).wt.toNat) h.second_mem,
    Finset.add_sum_erase _ (fun k => (entry u k).wt.toNat) (mem_activeSet.2 h.first.1)]

include hf h in
/-- The sum of the two weights is exact (spec/41_tree_builder.md R148). -/
theorem Forest.merged_weight :
    (mergedNode u a b).wt.toNat = (entry u a.toNat).wt.toNat + (entry u b.toNat).wt.toNat := by
  have hlight := hf.light
  have hsplit := h.weight_split
  exact BitVec.toNat_add_of_lt (x := (entry u a.toNat).wt) (y := (entry u b.toNat).wt) (by omega)

include hf h2 h

/-- The roots: the two that were merged are gone, and their parent is there. -/
theorem Forest.activeSet_merged :
    activeSet t = insert u.nnode.toNat (((activeSet u).erase a.toNat).erase b.toNat) := by
  ext k
  rw [mem_activeSet, h.active_iff (hf.nnode_lt h2), Finset.mem_insert, Finset.mem_erase, Finset.mem_erase, mem_activeSet]
  tauto

theorem Forest.weight_kept : forestWeight t = forestWeight u := by
  have hlt := hf.nnode_lt h2
  rw [h.weight_split, forestWeight, hf.activeSet_merged h2 h, Finset.sum_insert hf.roots_fresh,
    h.entry_eq hlt, if_pos rfl, hf.merged_weight h, Nat.add_assoc]
  refine congrArg _ (congrArg _ (Finset.sum_congr rfl fun k hk => ?_))
  rw [h.entry_below hlt (hf.below k (mem_activeSet.1 (Finset.mem_of_mem_erase (Finset.mem_of_mem_erase hk))))]

theorem Forest.card_merged : (activeSet t).card = t.nact.toNat := by
  rw [hf.activeSet_merged h2 h, Finset.card_insert_of_notMem hf.roots_fresh,
    Finset.card_erase_of_mem h.second_mem, Finset.card_erase_of_mem (mem_activeSet.2 h.first.1), hf.count, h.nact h2]
  omega

/-- The new node is as R144 and R148 say, and the older ones are as before. -/
theorem Forest.inner_merged (hk : n ≤ k) (hlt : k < t.nnode.toNat) : Inner t k := by
  have hn := hf.nnode_lt h2
  rw [h.nnode hn] at hlt
  have old {k : Nat} (hk : k < u.nnode.toNat) : entry t k = entry u k := h.entry_below hn hk
  by_cases hnew : k = u.nnode.toNat
  · have ha := hf.below _ h.first.1
    have hb := hf.below _ h.active_second
    have hentry : entry t k = mergedNode u a b := by rw [h.entry_eq hn, if_pos hnew]
    have hzero : (entry t k).zero = a := congrArg Node.zero hentry
    have hone : (entry t k).one = b := congrArg Node.one hentry
    refine ⟨congrArg Node.leaf hentry, ?_, ?_, ?_, ?_, ?_⟩
    · rwa [hzero, hnew]
    · rwa [hone, hnew]
    · rw [hzero, hone]
      exact fun hab => h.ne (congrArg BitVec.toNat hab.symm)
    · rw [hzero, hone, old ha, old hb, hentry, hf.merged_weight h]
    · rw [hzero, hone, precedes_congr (old ha) (old hb)]
      exact h.first_precedes
  · have hk' : k < u.nnode.toNat := by omega
    obtain ⟨hleaf, hzero, hone, hne, hweight, hprec⟩ := hf.inner k hk hk'
    refine ⟨?_, ?_, ?_, ?_, ?_, ?_⟩ <;> rw [old hk']
    · exact hleaf
    · exact hzero
    · exact hone
    · exact hne
    · rw [old (hzero.trans hk'), old (hone.trans hk')]
      exact hweight
    · rw [precedes_congr (old (hzero.trans hk')) (old (hone.trans hk'))]
      exact hprec

theorem Forest.parentCount_merged (i : Nat) :
    parentCount n t i = parentCount n u i + if i = a.toNat ∨ i = b.toNat then 1 else 0 := by
  have hn := hf.nnode_lt h2
  have hold : (List.range u.nnode.toNat).countP (fun k => decide (n ≤ k ∧ isParent t k i)) = parentCount n u i := by
    refine List.countP_congr fun k hk => ?_
    simp only [decide_eq_true_eq, isParent_congr (h.entry_below hn (List.mem_range.1 hk))]
  have hnew : (n ≤ u.nnode.toNat ∧ isParent t u.nnode.toNat i) ↔ (i = a.toNat ∨ i = b.toNat) := by
    simp only [isParent, h.entry_eq hn, if_true, and_iff_right hf.grown]
    simp [mergedNode, eq_comm]
  rw [parentCount, h.nnode hn, List.range_succ, List.countP_append, hold, List.countP_singleton]
  simp only [hnew, decide_eq_true_eq]

theorem Forest.parents_merged (hi : i < t.nnode.toNat) : parentCount n t i = if activeAt t i then 0 else 1 := by
  have hn := hf.nnode_lt h2
  have ha := hf.below _ h.first.1
  have hb := hf.below _ h.active_second
  rw [h.nnode hn] at hi
  have hact := h.active_iff hn i
  rw [hf.parentCount_merged h2 h]
  by_cases hnew : i = u.nnode.toNat
  · have hnone : parentCount n u i = 0 := by
      refine List.countP_eq_zero.2 fun k hk => ?_
      rw [List.mem_range] at hk
      rw [decide_eq_true_eq]
      rintro ⟨hnk, -, hchild⟩
      have hinner := hf.inner k hnk hk
      have := hinner.zero
      have := hinner.one
      omega
    rw [hnone, if_neg (by omega), if_pos (hact.2 (.inl hnew))]
  · rw [hf.parents i (by omega)]
    by_cases hab : i = a.toNat ∨ i = b.toNat
    · have : activeAt u i = true := hab.elim (fun e => e ▸ h.first.1) (fun e => e ▸ h.active_second)
      rw [if_pos this, if_pos hab, if_neg (by rw [hact]; tauto)]
    · have : activeAt t i = activeAt u i := Bool.eq_iff_iff.2 (hact.trans (by tauto))
      rw [this, if_neg hab, Nat.add_zero]

theorem Forest.merged : Forest n t := by
  have hn := hf.nnode_lt h2
  have hnnode := h.nnode hn
  have hgrown := hf.grown
  refine ⟨hf.few, by omega, ?_, hf.card_merged h2 h, fun k hk => ?_, fun _ => ?_, ?_, fun k => hf.inner_merged h2 h,
    fun i => hf.parents_merged h2 h, by rw [hf.weight_kept h2 h]; exact hf.light⟩
  · rw [hnnode, h.nact h2]
    have := hf.size
    omega
  · obtain rfl | ⟨hk, -⟩ := (h.active_iff hn k).1 hk
    · omega
    · have := hf.below k hk
      omega
  · rw [hnnode, Nat.add_sub_cancel]
    exact (h.active_iff hn _).2 (.inl rfl)
  · have hleaf {k : Nat} (hk : k < n) : entry t k = entry u k := h.entry_below hn (by omega)
    refine ⟨fun k hk => ?_, fun k hk j hj => ?_⟩
    · rw [hleaf hk]
      exact hf.leaves.1 k hk
    · rw [hleaf hk, hleaf (hj.trans hk)]
      exact hf.leaves.2 k hk j hj

end Keeps

end Merge

end Sys2Proof.Proofs

namespace Sys2Proof.Proofs

open Sys2Proof.Machine Sys2Proof.Safety

/-! # The whole of MERGE -/

section Tree

variable {s s' t t' u v : State} {a b : NodeIdx} {n m i j k : Nat} {P : State → Prop}

/-! ## The loop -/

/-- The loop of MERGE makes its merges, and keeps what every merge of a forest keeps. -/
theorem mergeLoop_keeps (hP : ∀ u t a b, Forest n u → 2 ≤ u.nact.toNat → Merged a b u t → P u → P t) (m : Nat)
    (hf : Forest n u) (hm : m ≤ u.nact.toNat - 1) (hu : P u) :
    ∃ t, mergeLoop m u = .ok () t ∧ Forest n t ∧ t.nact.toNat = u.nact.toNat - m ∧ P t := by
  induction m generalizing u with
  | zero => exact ⟨u, rfl, hf, rfl, hu⟩
  | succ m ih =>
    have h2 : 2 ≤ u.nact.toNat := by omega
    obtain ⟨a, b, v, hv, h⟩ := hf.mergeStep_ok h2
    have hnact := h.nact h2
    obtain ⟨t, ht, hft, hcount, hPt⟩ := ih (hf.merged h2 h) (by omega) (hP u v a b hf h2 h hu)
    exact ⟨t, by rw [mergeLoop, hv, andThen_ok, ht], hft, by omega, hPt⟩

/-- What a merge leaves alone: all but the arena's registers, and the leaves (spec/41_tree_builder.md R144, R147). -/
def MergeFrame (n : Nat) (s u : State) : Prop :=
  (∃ node active nnode nact, u = { s with node := node, active := active, nnode := nnode, nact := nact }) ∧
  ∀ k < n, entry u k = entry s k

theorem MergeFrame.merged (hf : Forest n u) (h2 : 2 ≤ u.nact.toNat) (h : Merged a b u t) (hu : MergeFrame n s u) :
    MergeFrame n s t := by
  obtain ⟨⟨node, active, nnode, nact, hframe⟩, hleaves⟩ := hu
  refine ⟨?_, fun k hk => ?_⟩
  · rw [h.eq, hframe]
    exact ⟨_, _, _, _, rfl⟩
  · rw [h.entry_below (hf.nnode_lt h2) (hk.trans_le hf.grown), hleaves k hk]

/-- The weights of internal nodes do not fall (spec/41_tree_builder.md R151): the newest one weighs no more than any two roots
together, of which the next one will be the parent. -/
structure Rising (n : Nat) (u : State) : Prop where
  rises : ∀ k, n ≤ k → k + 1 < u.nnode.toNat → (entry u k).wt.toNat ≤ (entry u (k + 1)).wt.toNat
  roots : n < u.nnode.toNat → ∀ i j, activeAt u i = true → activeAt u j = true → i ≠ j →
    (entry u (u.nnode.toNat - 1)).wt.toNat ≤ (entry u i).wt.toNat + (entry u j).wt.toNat

theorem Rising.start (h : s.nnode.toNat = n) : Rising n s :=
  ⟨fun k hk hlt => absurd hlt (by omega), fun hlt => absurd hlt (by omega)⟩

theorem Rising.merged (hf : Forest n u) (h2 : 2 ≤ u.nact.toNat) (h : Merged a b u t) (hu : Rising n u) : Rising n t := by
  have hn := hf.nnode_lt h2
  have hnnode := h.nnode hn
  have hnew : (entry t u.nnode.toNat).wt.toNat = (entry u a.toNat).wt.toNat + (entry u b.toNat).wt.toNat := by
    rw [h.entry_eq hn, if_pos rfl, hf.merged_weight h]
  have old {k : Nat} (hk : k < u.nnode.toNat) : entry t k = entry u k := h.entry_below hn hk
  have hab := weight_le_of_precedes h.first_precedes
  refine ⟨fun k hk hlt => ?_, fun _ i j hi hj hij => ?_⟩
  · rw [hnnode] at hlt
    rw [old (by omega)]
    by_cases hlast : k + 1 = u.nnode.toNat
    · have := hu.roots (by omega) _ _ h.first.1 h.active_second h.ne.symm
      rwa [hlast, hnew, show k = u.nnode.toNat - 1 by omega]
    · rw [old (by omega)]
      exact hu.rises k hk (by omega)
  · have heavy {k : Nat} (hk : activeAt t k = true) : (entry u b.toNat).wt.toNat ≤ (entry t k).wt.toNat := by
      obtain rfl | ⟨hk, hka, hkb⟩ := (h.active_iff hn k).1 hk
      · omega
      · rw [old (hf.below k hk)]
        exact weight_le_of_precedes (h.precedes_rest hk hka hkb)
    have := heavy hi
    have := heavy hj
    rw [hnnode, Nat.add_sub_cancel, hnew]
    omega

/-! ## The root -/

/-- When one node is active, it is the newest. -/
theorem Forest.active_iff_root (h : Forest n u) (h1 : u.nact.toNat = 1) : activeAt u k = true ↔ k = 2 * n - 2 := by
  have hsize := h.size
  obtain ⟨r, hr⟩ := Finset.card_eq_one.1 (h.count.trans h1)
  have only (k : Nat) : activeAt u k = true ↔ k = r := by rw [← mem_activeSet, hr, Finset.mem_singleton]
  have hnewest := (only _).1 (h.newest (by omega))
  rw [only]
  omega

theorem Forest.firstActive_root (h : Forest n u) (h1 : u.nact.toNat = 1) : firstActive u = some (2 * n - 2) := by
  have hroot := (h.active_iff_root h1).2 rfl
  cases hfound : firstActive u with
  | none => exact absurd hroot (List.find?_eq_none.1 hfound _ (List.mem_range.2 (activeAt_lt hroot)))
  | some i => rw [(h.active_iff_root h1).1 (List.find?_some hfound)]

/-- The state after the choice of the root. -/
abbrev rooted (n : Nat) (u : State) : State := { u with root := BitVec.ofNat 9 (2 * n - 2), rootValid := true }

theorem Forest.chooseRoot_ok (h : Forest n u) (h1 : u.nact.toNat = 1) : chooseRoot u = .ok () (rooted n u) := by
  have hone : u.nact = 1 := BitVec.eq_of_toNat_eq h1
  rw [chooseRoot, if_pos hone, h.firstActive_root h1]

theorem Forest.root_toNat (h : Forest n u) : (rooted n u).root.toNat = 2 * n - 2 := by
  have := h.few
  exact Nat.mod_eq_of_lt (by omega)

/-- A forest with one root is a tree (spec/41_tree_builder.md R145, R150). -/
theorem Forest.tree (h : Forest n u) (h1 : u.nact.toNat = 1) : treeShape (rooted n u) n := by
  have hsize := h.size
  have hnnode : u.nnode.toNat = 2 * n - 1 := by omega
  refine ⟨by omega, h.few, hnnode, h.root_toNat, rfl, h.leaves, fun k hk hn => ?_, fun i hi => ?_⟩
  · have hinner := h.inner k hn (by omega)
    exact ⟨hinner.leaf, hinner.zero, hinner.one, hinner.ne⟩
  · have hparents := h.parents i (by omega)
    rw [if_neg (by rw [h.active_iff_root h1]; omega), parentCount, hnnode] at hparents
    exact hparents

/-! ## MERGE -/

theorem Ends.ne_abort {i : Instr} {α : Type} {r : Res α} (h : Ends i s P r) (hi : abortCodes i = []) : r ≠ .abort t := by
  rintro rfl
  obtain ⟨u, e, c, -, hc, -⟩ := h
  exact List.not_mem_nil (hi ▸ hc)

theorem exec_merge (s : State) : exec .merge s = finish (andThen (mergeLoop (s.nact.toNat - 1) s) fun _ s1 =>
    andThen (chooseRoot s1) fun _ s2 => .ok () (toPhase (afterMerge s2) s2)) := rfl

/-- All that a next state of MERGE can be. -/
theorem exec_merge_cases (h : exec .merge s = .next t) : ∃ u r, mergeLoop (s.nact.toNat - 1) s = .ok () u ∧
    chooseRoot u = .ok () r ∧ t = toPhase (afterMerge r) r := by
  rw [exec_merge, finish_eq_next, andThen_eq_ok, andThen_eq_abort] at h
  obtain ⟨_, u, hu, h⟩ | hloop | ⟨_, u, hu, h⟩ := h
  · obtain ⟨_, r, hr, h⟩ := (andThen_eq_ok _ _ _ _).1 h
    exact ⟨u, r, hu, hr, (Res.ok.inj h).2.symm⟩
  · exact absurd hloop ((mergeLoop_ends _ (.refl _ s)).ne_abort rfl)
  · obtain hroot | ⟨_, r, hr, h⟩ := (andThen_eq_abort _ _ _).1 h
    · exact absurd hroot ((chooseRoot_ends (.refl _ u)).ne_abort rfl)
    · cases h

/-- All that a choice of the root can be. -/
theorem chooseRoot_cases {x : Unit} (h : chooseRoot u = .ok x t) : (u.nact ≠ 1 ∧ t = { u with rootValid := false }) ∨
    (u.nact = 1 ∧ ∃ i, firstActive u = some i ∧ t = { u with root := BitVec.ofNat 9 i, rootValid := true }) := by
  unfold chooseRoot at h
  split at h
  · next h1 =>
    split at h
    · cases h
    · next i hi => exact .inr ⟨h1, i, hi, (Res.ok.inj h).2.symm⟩
  · next h1 => exact .inl ⟨h1, (Res.ok.inj h).2.symm⟩

/-- MERGE of leaves ends with a forest of one root, and keeps what every merge keeps. -/
theorem exec_merge_leaves (hP : ∀ u t a b, Forest n u → 2 ≤ u.nact.toNat → Merged a b u t → P u → P t)
    (hs : leavesReady s n) (h1 : 1 ≤ n) (hPs : P s) :
    ∃ u, Forest n u ∧ u.nact.toNat = 1 ∧ P u ∧ exec .merge s = .next (toPhase (afterMerge (rooted n u)) (rooted n u)) := by
  have hf := forest_of_leavesReady hs
  obtain ⟨-, -, hnact, -⟩ := hs
  obtain ⟨u, hu, hfu, hcount, hPu⟩ := mergeLoop_keeps hP (s.nact.toNat - 1) hf le_rfl hPs
  have hone : u.nact.toNat = 1 := by omega
  refine ⟨u, hfu, hone, hPu, ?_⟩
  rw [exec_merge, hu, andThen_ok, hfu.chooseRoot_ok hone]
  rfl

/-- MERGE of no leaves: there is no tree (spec/41_tree_builder.md R146). -/
theorem exec_merge_none (h : s.nact.toNat = 0) :
    exec .merge s = .next (toPhase (afterMerge { s with rootValid := false }) { s with rootValid := false }) := by
  have hne : s.nact ≠ 1 := fun h1 => by simp [h1] at h
  rw [exec_merge, h, Nat.zero_sub, mergeLoop, andThen_ok, chooseRoot, if_neg hne]
  rfl

/-! ## The tree as a function of the counts (spec/41_tree_builder.md R149) -/

/-- The two arenas hold the same below NNODE and at the active nodes, which are the same. -/
structure SameArena (u v : State) : Prop where
  nnode : u.nnode = v.nnode
  nact : u.nact = v.nact
  active : ∀ k, activeAt u k = activeAt v k
  below : ∀ k < u.nnode.toNat, entry u k = entry v k
  roots : ∀ k, activeAt u k = true → entry u k = entry v k

theorem SameArena.symm (h : SameArena u v) : SameArena v u where
  nnode := h.nnode.symm
  nact := h.nact.symm
  active k := (h.active k).symm
  below k hk := (h.below k (h.nnode ▸ hk)).symm
  roots k hk := (h.roots k (h.active k ▸ hk)).symm

/-- The least active node is the same. -/
theorem SameArena.isLeast (h : SameArena u v) (hm : IsLeast u m) : IsLeast v m := by
  obtain ⟨hact, hleast⟩ := hm
  refine ⟨h.active m ▸ hact, fun j hj hne => ?_⟩
  have hju : activeAt u j = true := h.active j ▸ hj
  rw [← precedes_congr (h.roots m hact) (h.roots j hju)]
  exact hleast j hju hne

theorem SameArena.deactivated (h : SameArena u v) (a : NodeIdx) : SameArena (deactivated a u) (deactivated a v) where
  nnode := h.nnode
  nact := congrArg (· - 1) h.nact
  active k := by rw [activeAt_deactivated, activeAt_deactivated, h.active]
  below := h.below
  roots k hk := h.roots k (by rw [activeAt_deactivated, Bool.and_eq_true] at hk; exact hk.1)

theorem SameArena.allocNode (h : SameArena u v) (x : Node) : SameArena (allocNode x u) (allocNode x v) where
  nnode := congrArg (· + 1) h.nnode
  nact := congrArg (· + 1) h.nact
  active k := by rw [activeAt_allocNode, activeAt_allocNode, h.nnode, h.active]
  below k hk := by
    rw [entry_allocNode, entry_allocNode, ← h.nnode]
    split
    · rfl
    · next hne =>
      have hsucc : (Machine.allocNode x u).nnode.toNat = (u.nnode.toNat + 1) % 2 ^ 9 := BitVec.toNat_add u.nnode 1
      exact h.below k (by omega)
  roots k hk := by
    rw [entry_allocNode, entry_allocNode, ← h.nnode]
    rw [activeAt_allocNode] at hk
    split
    · rfl
    · next hne => exact h.roots k (by rwa [if_neg hne] at hk)

/-- The same two nodes are merged. -/
theorem SameArena.merged (h : SameArena u v) {a' b' : NodeIdx} {u' v' : State} (hu : Merged a b u u') (hv : Merged a' b' v v') :
    SameArena u' v' := by
  obtain rfl : a = a' := BitVec.eq_of_toNat_eq ((h.isLeast hu.first).unique hv.first)
  obtain rfl : b = b' := BitVec.eq_of_toNat_eq (((h.deactivated a).isLeast hu.second).unique hv.second)
  have hnode : mergedNode u a b = mergedNode v a b := by
    simp only [mergedNode, nodeAt_eq_entry, h.roots _ hu.first.1, h.roots _ hu.active_second]
  rw [hu.eq, hv.eq, hnode]
  exact ((h.deactivated a).deactivated b).allocNode _

theorem SameArena.mergeLoop (h : SameArena u v) (m : Nat) {u' v' : State} (hu : mergeLoop m u = .ok () u')
    (hv : mergeLoop m v = .ok () v') : SameArena u' v' := by
  induction m generalizing u v with
  | zero =>
    obtain rfl := (Res.ok.inj hu).2
    obtain rfl := (Res.ok.inj hv).2
    exact h
  | succ m ih =>
    obtain ⟨_, u1, hu1, hu⟩ := (andThen_eq_ok _ _ _ _).1 hu
    obtain ⟨_, v1, hv1, hv⟩ := (andThen_eq_ok _ _ _ _).1 hv
    obtain ⟨a, b, hab⟩ := mergeStep_eq_ok hu1
    obtain ⟨a', b', hab'⟩ := mergeStep_eq_ok hv1
    exact ih (h.merged hab hab') hu hv

/-- The same root is chosen. -/
theorem SameArena.chooseRoot (h : SameArena u v) {u' v' : State} (hu : chooseRoot u = .ok () u') (hv : chooseRoot v = .ok () v') :
    SameArena u' v' ∧ u'.rootValid = v'.rootValid ∧ (u'.rootValid = true → u'.root = v'.root) := by
  have hfirst : firstActive u = firstActive v := congrArg (fun p => (List.range 511).find? p) (funext h.active)
  have hkeeps (x y : NodeIdx) (p q : Bool) :
      SameArena { u with root := x, rootValid := p } { v with root := y, rootValid := q } :=
    ⟨h.nnode, h.nact, h.active, h.below, h.roots⟩
  obtain ⟨hu1, rfl⟩ | ⟨hu1, i, hi, rfl⟩ := chooseRoot_cases hu <;>
    obtain ⟨hv1, rfl⟩ | ⟨hv1, j, hj, rfl⟩ := chooseRoot_cases hv
  · exact ⟨hkeeps _ _ _ _, rfl, nofun⟩
  · exact absurd (h.nact.trans hv1) hu1
  · exact absurd (h.nact.symm.trans hu1) hv1
  · obtain rfl : i = j := Option.some.inj (hi.symm.trans (hfirst.trans hj))
    exact ⟨hkeeps _ _ _ _, rfl, fun _ => rfl⟩

/-- Rows of the same leaves. -/
theorem Rowing.sameArena {bs : List Byte} (hft : s.ft = s'.ft) (hlen : bs.length < 2 ^ 9) (h : Rowing s bs i u)
    (h' : Rowing s' bs j v) : SameArena u v := by
  have hcount : u.nnode = BitVec.ofNat 9 bs.length ∧ v.nnode = BitVec.ofNat 9 bs.length ∧ u.nact = v.nact := by
    obtain ⟨node, active, hu⟩ := h.frame
    obtain ⟨node', active', hv⟩ := h'.frame
    rw [hu, hv]
    exact ⟨rfl, rfl, rfl⟩
  obtain ⟨hu, hv, hnact⟩ := hcount
  have row (k : Nat) (hk : k < bs.length) : entry u k = entry v k := by
    rw [h.row k hk, h'.row k hk]
    simp only [leafOf, ftGet, hft]
  refine ⟨hu.trans hv.symm, hnact, fun k => by rw [h.active, h'.active], fun k hk => row k ?_, fun k hk => row k ?_⟩
  · rwa [hu, BitVec.toNat_ofNat, Nat.mod_eq_of_lt hlen] at hk
  · rwa [h.active, decide_eq_true_eq] at hk

/-- LEAVES makes the same row of the same counts. -/
theorem exec_leaves_sameArena (hft : s.ft = s'.ft) (h : exec .leaves s = .next t) (h' : exec .leaves s' = .next t') :
    SameArena t t' := by
  obtain ⟨u, hrows, hu⟩ := exec_leaves s
  obtain ⟨v, hrows', hv⟩ := exec_leaves s'
  obtain rfl := Host.Outcome.next.inj (h.symm.trans hu)
  obtain rfl := Host.Outcome.next.inj (h'.symm.trans hv)
  have hpresent : presentBytes s' = presentBytes s := by simp only [presentBytes, ftGet, hft]
  have hlen := length_presentBytes_le s
  have same := hrows.sameArena hft (by omega) (hpresent ▸ hrows')
  exact ⟨same.nnode, same.nact, same.active, same.below, same.roots⟩

end Tree

/-- Settles O13: the merges keep a forest, whose roots become one. -/
theorem mergeBuildsTree : Obligations.MergeBuildsTree := by
  intro s n hs
  have ⟨_, hnnode, hnact, _⟩ := hs
  by_cases h0 : n = 0
  · subst h0
    refine ⟨_, exec_merge_none hnact, ?_, fun _ => ⟨rfl, rfl, ?_, ?_, fun k => ?_⟩, fun h1 => absurd h1 (by decide)⟩
    · cases s.mode <;> simp [toPhase, afterMerge]
    · exact BitVec.eq_of_toNat_eq hnnode
    · exact BitVec.eq_of_toNat_eq hnact
    · exact Bool.eq_false_iff.2 fun hk => Nat.not_lt_zero k ((active_of_leavesReady hs).1 hk)
  · obtain ⟨u, hf, hone, ⟨⟨node, active, nnode, nact, hframe⟩, hleaves⟩, h⟩ :=
      exec_merge_leaves (P := MergeFrame n s) (fun _ _ _ _ => MergeFrame.merged) hs (by omega) ⟨⟨_, _, _, _, rfl⟩, fun _ _ => rfl⟩
    refine ⟨_, h, ?_, fun h0' => absurd h0' h0, fun _ => ⟨hf.tree hone, BitVec.eq_of_toNat_eq hone, fun k => ?_, hleaves, fun k hk hlt => ?_⟩⟩
    · rw [hframe]
      cases s.mode <;> simp [toPhase, afterMerge, h0]
    · show activeAt u k = decide (k = (rooted n u).root.toNat)
      rw [hf.root_toNat, Bool.eq_iff_iff, decide_eq_true_eq, hf.active_iff_root hone]
    · have hsize := hf.size
      have hinner := hf.inner k hk (by omega)
      exact ⟨hinner.weight, hinner.precedes⟩

/-- Settles O14: two runs with the same row make the same merges. -/
theorem treeIsFunctionOfCounts : Obligations.TreeIsFunctionOfCounts := by
  intro s s' t t' u u' hft ht hu ht' hu'
  have hrow := exec_leaves_sameArena hft ht ht'
  obtain ⟨v, r, hloop, hroot, rfl⟩ := exec_merge_cases hu
  obtain ⟨v', r', hloop', hroot', rfl⟩ := exec_merge_cases hu'
  have hmerged := hrow.mergeLoop _ hloop (hrow.nact ▸ hloop')
  obtain ⟨harena, hvalid, hindex⟩ := hmerged.chooseRoot hroot hroot'
  exact ⟨harena.nnode, hvalid, hindex, harena.below⟩

/-- Settles O15: every merge keeps the weights rising. -/
theorem internalWeightsRise : Obligations.InternalWeightsRise := by
  intro s t n hs ht k hk hlt
  have ⟨_, hnnode, _⟩ := hs
  obtain ⟨u, hf, hone, hrising, h⟩ :=
    exec_merge_leaves (P := Rising n) (fun _ _ _ _ => Rising.merged) hs (by omega) (.start hnnode)
  obtain rfl := Host.Outcome.next.inj (ht.symm.trans h)
  have hsize := hf.size
  exact BitVec.le_def.2 (hrising.rises k hk (by omega))

end Sys2Proof.Proofs

namespace Sys2Proof.Proofs

open Sys2Proof.Machine Sys2Proof.Safety

/-! # The frame of LEAVES, MERGE and CODES -/

section Frames

variable {s t u : State}

/-- An operation that raises nothing ends where its chain of pieces does. -/
theorem Meets.of_finish {P : State → Prop} {F : Prop} {r : Res Unit} (h : Meets P (fun _ _ _ => False) F r)
    (ht : finish r = .next t) : P t := by
  cases r with
  | ok a v => exact Host.Outcome.next.inj ht ▸ h
  | abort v =>
    obtain ⟨_, _, _, hno, -⟩ := h
    exact hno.elim
  | fault f => cases ht

/-! ## MERGE -/

/-- What MERGE may change (spec/41_tree_builder.md R144). -/
def TreeFrame (s u : State) : Prop := ∃ node active nnode nact root rootValid phase, u = { s with
  node := node, active := active, nnode := nnode, nact := nact, root := root, rootValid := rootValid, phase := phase }

theorem mergeStep_frame {x : Unit} (h : TreeFrame s u) (ht : mergeStep u = .ok x t) : TreeFrame s t := by
  obtain ⟨node, active, nnode, nact, root, rootValid, phase, rfl⟩ := h
  obtain ⟨a, b, hab⟩ := mergeStep_eq_ok ht
  exact ⟨_, _, _, _, _, _, _, hab.eq⟩

theorem mergeLoop_frame (n : Nat) (h : TreeFrame s u) {x : Unit} (ht : mergeLoop n u = .ok x t) : TreeFrame s t := by
  induction n generalizing u with
  | zero => exact (Res.ok.inj ht).2 ▸ h
  | succ n ih =>
    obtain ⟨_, v, hv, ht⟩ := (andThen_eq_ok _ _ _ _).1 ht
    exact ih (mergeStep_frame h hv) ht

theorem exec_merge_frame (h : exec .merge s = .next t) : TreeFrame s t := by
  obtain ⟨u, r, hloop, hroot, rfl⟩ := exec_merge_cases h
  obtain ⟨node, active, nnode, nact, root, rootValid, phase, rfl⟩ :=
    mergeLoop_frame _ ⟨_, _, _, _, _, _, _, rfl⟩ hloop
  obtain ⟨-, rfl⟩ | ⟨-, i, -, rfl⟩ := chooseRoot_cases hroot <;> exact ⟨_, _, _, _, _, _, _, rfl⟩

/-! ## CODES -/

/-- What CODES may change (spec/42_code_table.md R161). -/
def CodesFrame (s u : State) : Prop := ∃ ct stk sp path phase, u = { s with
  ct := ct, stk := stk, sp := sp, path := path, phase := phase }

/-- A piece of CODES, which changes no more than CODES may. -/
abbrev MeetsCodes (s : State) (r : Res Unit) : Prop := Meets (CodesFrame s) (fun _ _ _ => False) True r

theorem pushStk_meets (e : StkEntry) (h : CodesFrame s u) : MeetsCodes s (pushStk e u) := by
  obtain ⟨ct, stk, sp, path, phase, rfl⟩ := h
  unfold pushStk
  split
  · exact ⟨_, _, _, _, _, rfl⟩
  · exact trivial

theorem visit_meets (e : StkEntry) (h : CodesFrame s u) : MeetsCodes s (visit e u) := by
  unfold visit
  dsimp only
  split
  · obtain ⟨ct, stk, sp, path, phase, rfl⟩ := h
    exact ⟨_, _, _, _, _, rfl⟩
  · exact (pushStk_meets _ h).bind fun _ _ hv => pushStk_meets _ hv

theorem popStk_frame (h : CodesFrame s u) : CodesFrame s (popStk u) := by
  obtain ⟨ct, stk, sp, path, phase, rfl⟩ := h
  exact ⟨_, _, _, _, _, rfl⟩

theorem walkLoop_meets (n : Nat) (h : CodesFrame s u) : MeetsCodes s (walkLoop n u) := by
  induction n generalizing u with
  | zero =>
    unfold walkLoop
    split
    · exact h
    · exact trivial
  | succ n ih =>
    unfold walkLoop
    split
    · exact h
    · exact (visit_meets _ (popStk_frame h)).bind fun _ _ hv => ih hv

theorem walkRoot_meets (s : State) : MeetsCodes s (walkRoot (ctClear s)) := by
  unfold walkRoot
  dsimp only
  split
  · exact ⟨_, _, _, _, _, rfl⟩
  · exact (pushStk_meets _ ⟨_, _, _, _, _, rfl⟩).bind fun _ _ hv => walkLoop_meets _ hv

theorem exec_codes_frame (h : exec .codes s = .next t) : CodesFrame s t := by
  refine Meets.of_finish ((walkRoot_meets s).bind fun _ v hv => ?_) h
  obtain ⟨ct, stk, sp, path, phase, rfl⟩ := hv
  exact ⟨_, _, _, _, _, rfl⟩

end Frames

/-- Settles O50, by the frames of the three phases. -/
theorem frameTreePhases : Obligations.FrameTreePhases := by
  have leaves {s t : State} (h : exec .leaves s = .next t) : ∃ node active count symi nchar, t = { s with
      node := node, active := active, nnode := count, nact := count, rootValid := false, symi := symi, phase := phaseCode .merge,
      nchar := if s.mode = .compress then nchar else s.nchar } := by
    obtain ⟨u, ⟨⟨node, active, rfl⟩, -⟩, hu⟩ := exec_leaves s
    exact ⟨_, _, _, _, _, Host.Outcome.next.inj (h.symm.trans hu)⟩
  refine fun s t => ⟨fun h => ?_, fun h => ?_, fun h => ?_, fun i hi h => ?_⟩
  · obtain ⟨node, active, count, symi, nchar, rfl⟩ := leaves h
    exact ⟨rfl, fun hm => if_neg (by simp [hm])⟩
  · obtain ⟨node, active, nnode, nact, root, rootValid, phase, rfl⟩ := exec_merge_frame h
    rfl
  · obtain ⟨ct, stk, sp, path, phase, rfl⟩ := exec_codes_frame h
    rfl
  · obtain rfl | rfl | rfl := hi
    · obtain ⟨node, active, count, symi, nchar, rfl⟩ := leaves h
      exact ⟨rfl, fun _ => ⟨rfl, rfl⟩⟩
    · obtain ⟨node, active, nnode, nact, root, rootValid, phase, rfl⟩ := exec_merge_frame h
      exact ⟨rfl, fun _ => ⟨rfl, rfl⟩⟩
    · obtain ⟨ct, stk, sp, path, phase, rfl⟩ := exec_codes_frame h
      exact ⟨rfl, fun _ => ⟨rfl, rfl⟩⟩

end Sys2Proof.Proofs

namespace Sys2Proof.Proofs

open Sys2Proof.Machine Sys2Proof.Safety

/-! # CODES of a tree: the walk ends, and it reaches every leaf

The walk of spec/42_code_table.md R163 is followed on two levels: `Explored` speaks of the nodes it has seen and of those on its
stack, `Walking` of the machine's state. -/

/-! ## The tree -/

section Shape

variable {s : State} {n i j k : Nat}

theorem inner_of_isParent (h : treeShape s n) (hp : isParent s k i) : n ≤ k := by
  obtain ⟨-, -, -, -, -, ⟨hleaf, -⟩, -⟩ := h
  by_contra hlt
  exact absurd ((hleaf k (by omega)).1.symm.trans hp.1) (by decide)

theorem child_lt (h : treeShape s n) (hp : isParent s k i) (hk : k < 2 * n - 1) : i < k := by
  have hn := inner_of_isParent h hp
  obtain ⟨-, -, -, -, -, -, hinner, -⟩ := h
  obtain ⟨-, hzero, hone, -⟩ := hinner k hk hn
  obtain ⟨-, hi | hi⟩ := hp <;> omega

/-- A node other than the root has exactly one parent (spec/41_tree_builder.md R150). -/
theorem exists_unique_parent (h : treeShape s n) (hi : i < 2 * n - 2) :
    ∃ p < 2 * n - 1, isParent s p i ∧ ∀ k < 2 * n - 1, isParent s k i → k = p := by
  have inner (k : Nat) (hp : isParent s k i) : n ≤ k := inner_of_isParent h hp
  obtain ⟨-, -, -, -, -, -, -, hparents⟩ := h
  have hone := hparents i hi
  rw [List.countP_eq_length_filter, List.length_eq_one_iff] at hone
  obtain ⟨p, hp⟩ := hone
  have mem (k : Nat) : k < 2 * n - 1 ∧ isParent s k i ↔ k = p := by
    rw [← List.mem_singleton, ← hp, List.mem_filter, List.mem_range, decide_eq_true_eq]
    exact and_congr_right fun _ => (and_iff_right_of_imp (inner k)).symm
  obtain ⟨hlt, hpar⟩ := (mem p).2 rfl
  exact ⟨p, hlt, hpar, fun k hk hki => (mem k).1 ⟨hk, hki⟩⟩

end Shape

/-! ## The nodes a walk has seen, and those it still has to see -/

section Explore

variable {s : State} {n k : Nat} {seen rest pending : List Nat}

/-- The walk has seen the nodes of `seen`, and those of `pending` are on its stack: no node twice, and the parent of each node before it. -/
structure Explored (s : State) (n : Nat) (seen pending : List Nat) : Prop where
  distinct : (seen ++ pending).Nodup
  bound : ∀ i ∈ seen ++ pending, i < 2 * n - 1
  root : 2 * n - 2 ∈ seen ++ pending
  parents : ∀ i ∈ seen ++ pending, i ≠ 2 * n - 2 → ∃ k ∈ seen, isParent s k i
  children : ∀ k ∈ seen, ∀ i, isParent s k i → i ∈ seen ++ pending
  count : (seen ++ pending).length = 1 + 2 * seen.countP fun k => !(entry s k).leaf

theorem Explored.start (h1 : 1 ≤ n) : Explored s n [] [2 * n - 2] where
  distinct := List.nodup_singleton _
  bound i hi := by rw [List.mem_singleton.1 hi]; omega
  root := List.mem_singleton_self _
  parents i hi hne := absurd (List.mem_singleton.1 hi) hne
  children k hk := absurd hk List.not_mem_nil
  count := rfl

/-- No more nodes than the arena has. -/
theorem Explored.length_le (h : Explored s n seen pending) : seen.length + pending.length ≤ 2 * n - 1 := by
  have hsub : seen ++ pending ⊆ List.range (2 * n - 1) := fun i hi => List.mem_range.2 (h.bound i hi)
  simpa using (h.distinct.subperm hsub).length_le

/-- The stack never holds more nodes than the tree has leaves. -/
theorem Explored.pending_le (h : Explored s n seen pending) : pending.length ≤ n := by
  have hlen := h.length_le
  have hcount := h.count
  rw [List.length_append] at hcount
  have : (seen.countP fun k => !(entry s k).leaf) ≤ seen.length := List.countP_le_length
  omega

/-- A leaf is seen. -/
theorem Explored.leaf (h : Explored s n seen (k :: rest)) (hk : (entry s k).leaf = true) : Explored s n (k :: seen) rest := by
  have hperm : (k :: seen ++ rest).Perm (seen ++ k :: rest) := List.perm_middle.symm
  refine ⟨hperm.nodup_iff.2 h.distinct, fun i hi => h.bound i (hperm.subset hi), hperm.symm.subset h.root, fun i hi hne => ?_,
    fun j hj i hp => ?_, ?_⟩
  · obtain ⟨p, hp, hpar⟩ := h.parents i (hperm.subset hi) hne
    exact ⟨p, List.mem_cons_of_mem _ hp, hpar⟩
  · rcases List.mem_cons.1 hj with rfl | hj
    · exact absurd (hk.symm.trans hp.1) (by decide)
    · exact hperm.symm.subset (h.children j hj i hp)
  · rw [hperm.length_eq, h.count, List.countP_cons_of_neg (by simp [hk])]

/-- A child of the node on top of the stack has not been met. -/
theorem Explored.child_fresh (ht : treeShape s n) (h : Explored s n seen (k :: rest)) {i : Nat} (hp : isParent s k i) :
    i ∉ seen ++ k :: rest := by
  intro hi
  have hk := h.bound k (by simp)
  have hik := child_lt ht hp hk
  obtain ⟨j, hj, hjpar⟩ := h.parents i hi (by omega)
  obtain ⟨p, -, -, hunique⟩ := exists_unique_parent ht (i := i) (by omega)
  have hjk : j = k := (hunique j (h.bound j (by simp [hj])) hjpar).trans (hunique k hk hp).symm
  exact (List.disjoint_of_nodup_append h.distinct) hj (hjk ▸ List.mem_cons_self)

/-- The node on top of the stack is seen, and two nodes take its place. -/
theorem expand_perm (k z o : Nat) (seen rest : List Nat) : (k :: seen ++ z :: o :: rest).Perm (z :: o :: (seen ++ k :: rest)) :=
  List.perm_middle.trans (.cons _ (List.perm_middle.trans (.cons _ List.perm_middle.symm)))

/-- An internal node is seen, and its children go on the stack. -/
theorem Explored.inner (ht : treeShape s n) (h : Explored s n seen (k :: rest)) (hk : (entry s k).leaf = false) :
    Explored s n (k :: seen) ((entry s k).zero.toNat :: (entry s k).one.toNat :: rest) := by
  have hzero : isParent s k (entry s k).zero.toNat := ⟨hk, .inl rfl⟩
  have hone : isParent s k (entry s k).one.toNat := ⟨hk, .inr rfl⟩
  have hlt := h.bound k (by simp)
  have hne : (entry s k).zero.toNat ≠ (entry s k).one.toNat := by
    have hn := inner_of_isParent ht hzero
    obtain ⟨-, -, -, -, -, -, hinner, -⟩ := ht
    obtain ⟨-, -, -, hne⟩ := hinner k hlt hn
    exact fun he => hne (BitVec.eq_of_toNat_eq he)
  have hperm := expand_perm k (entry s k).zero.toNat (entry s k).one.toNat seen rest
  have mem (i : Nat) : i ∈ k :: seen ++ (entry s k).zero.toNat :: (entry s k).one.toNat :: rest ↔
      isParent s k i ∨ i ∈ seen ++ k :: rest := by
    rw [hperm.mem_iff, List.mem_cons, List.mem_cons, isParent, and_iff_right hk, or_assoc, eq_comm (a := i), eq_comm (a := i)]
  refine ⟨?_, fun i hi => ?_, (mem _).2 (.inr h.root), fun i hi hroot => ?_, fun j hj i hp => (mem i).2 ?_, ?_⟩
  · rw [hperm.nodup_iff, List.nodup_cons, List.nodup_cons, List.mem_cons, not_or]
    exact ⟨⟨hne, h.child_fresh ht hzero⟩, h.child_fresh ht hone, h.distinct⟩
  · obtain hp | hi := (mem i).1 hi
    · exact (child_lt ht hp hlt).trans hlt
    · exact h.bound i hi
  · obtain hp | hi := (mem i).1 hi
    · exact ⟨k, List.mem_cons_self, hp⟩
    · obtain ⟨p, hp, hpar⟩ := h.parents i hi hroot
      exact ⟨p, List.mem_cons_of_mem _ hp, hpar⟩
  · rcases List.mem_cons.1 hj with rfl | hj
    · exact .inl hp
    · exact .inr (h.children j hj i hp)
  · rw [hperm.length_eq, List.length_cons, List.length_cons, h.count, List.countP_cons_of_pos (by simp [hk])]
    omega

/-- When the stack is empty, every node has been seen. -/
theorem Explored.complete (ht : treeShape s n) (h : Explored s n seen []) {i : Nat} (hi : i < 2 * n - 1) : i ∈ seen := by
  have hnil : seen ++ [] = seen := List.append_nil seen
  induction hd : 2 * n - 2 - i using Nat.strong_induction_on generalizing i with
  | _ d ih =>
    by_cases hroot : i = 2 * n - 2
    · exact hroot ▸ hnil ▸ h.root
    · obtain ⟨p, hp, hpar, -⟩ := exists_unique_parent ht (i := i) (by omega)
      have hlt := child_lt ht hpar hp
      exact hnil ▸ h.children p (ih _ (by omega) hp rfl) i hpar

end Explore

/-! ## The stack -/

section Stack

variable {s u : State}

/-- The lowest `m` entries of STK, the highest of them first. -/
def entriesBelow (stk : Vector StkEntry 256) : Nat → List StkEntry
  | 0 => []
  | m + 1 => stk[m]?.getD { node := 0, depth := 0, bit := false } :: entriesBelow stk m

/-- The entries on the stack, the top first. -/
def stacked (u : State) : List StkEntry := entriesBelow u.stk u.sp.toNat

theorem length_entriesBelow (stk : Vector StkEntry 256) (m : Nat) : (entriesBelow stk m).length = m := by
  induction m with
  | zero => rfl
  | succ m ih => rw [entriesBelow, List.length_cons, ih]

theorem length_stacked (u : State) : (stacked u).length = u.sp.toNat := length_entriesBelow _ _

/-- A write above them leaves the entries alone. -/
theorem entriesBelow_setEntry (stk : Vector StkEntry 256) (e : StkEntry) {m j : Nat} (h : m ≤ j) :
    entriesBelow (setEntry stk j e) m = entriesBelow stk m := by
  induction m with
  | zero => rfl
  | succ m ih => rw [entriesBelow, entriesBelow, ih (by omega), getElem?_setEntry, if_neg (by omega)]

/-- The state after a push. -/
def pushed (e : StkEntry) (s : State) : State := { s with stk := setEntry s.stk s.sp.toNat e, sp := s.sp + 1 }

theorem pushStk_ok (e : StkEntry) (h : u.sp.toNat < 256) : pushStk e u = .ok () (pushed e u) := if_pos h

theorem pushed_sp (e : StkEntry) (h : u.sp.toNat < 256) : (pushed e u).sp.toNat = u.sp.toNat + 1 :=
  BitVec.toNat_add_of_lt (y := 1) (show u.sp.toNat + 1 < 2 ^ 9 by omega)

theorem stacked_pushed (e : StkEntry) (h : u.sp.toNat < 256) : stacked (pushed e u) = e :: stacked u := by
  rw [stacked, pushed_sp e h, entriesBelow, pushed, entriesBelow_setEntry _ _ le_rfl, getElem?_setEntry, if_pos ⟨rfl, h⟩]
  rfl

/-- The stack before a pop is the popped entry and the stack after it. -/
theorem stacked_popStk (h : u.sp ≠ 0) : stacked u = topStk u :: stacked (popStk u) := by
  have hpos : u.sp.toNat ≠ 0 := fun h0 => h (BitVec.eq_of_toNat_eq h0)
  have hsub : (u.sp - 1).toNat = u.sp.toNat - 1 := BitVec.toNat_sub_of_le (BitVec.le_def.2 (Nat.one_le_iff_ne_zero.2 hpos))
  have hsp : (popStk u).sp.toNat = u.sp.toNat - 1 := hsub
  obtain ⟨m, hm⟩ := Nat.exists_eq_succ_of_ne_zero hpos
  rw [stacked, stacked, hsp, topStk, hsub, hm]
  rfl

end Stack

/-! ## The walk -/

section Walk

variable {s t u v : State} {n m : Nat} {seen : List Nat}

theorem hasCode_ctSet (b c : Byte) (e : CodeEntry) (s : State) :
    hasCode (ctSet b e s) c = if b = c then e.valid else hasCode s c := by
  rw [hasCode, ctGet_ctSet, hasCode]
  split <;> rfl

/-- The nodes on the stack. -/
abbrev pendingNodes (u : State) : List Nat := (stacked u).map fun e => e.node.toNat

/-- `u` is a state of the walk of CODES, begun in `s`, that has seen the nodes of `seen`: each leaf among them has its code. -/
structure Walking (s : State) (n : Nat) (seen : List Nat) (u : State) : Prop where
  frame : CodesFrame s u
  explored : Explored s n seen (pendingNodes u)
  codes : ∀ k ∈ seen, (entry s k).leaf = true → hasCode u (entry s k).sym = true

theorem CodesFrame.entry_eq (h : CodesFrame s u) (k : Nat) : entry u k = entry s k := by
  obtain ⟨ct, stk, sp, path, phase, rfl⟩ := h
  rfl

theorem Walking.sp_le (ht : treeShape s n) (h : Walking s n seen u) : u.sp.toNat ≤ 256 := by
  have hle := h.explored.pending_le
  obtain ⟨-, hfew, -⟩ := ht
  rw [List.length_map, length_stacked] at hle
  omega

/-- A visit of a leaf writes its code (spec/42_code_table.md R163). -/
theorem visit_leaf {e : StkEntry} (h : (nodeAt u e.node).leaf = true) : visit e u = .ok ()
    (ctSet (nodeAt u e.node).sym { valid := true, len := e.depth, bits := pathBits u.path e.depth.toNat } u) := by
  simp [visit, h]

/-- A visit of an internal node pushes its children. -/
theorem visit_inner {e : StkEntry} (h : (nodeAt u e.node).leaf = false) (hsp : u.sp.toNat + 1 < 256) : visit e u = .ok ()
    (pushed { node := (nodeAt u e.node).zero, depth := e.depth + 1, bit := false }
      (pushed { node := (nodeAt u e.node).one, depth := e.depth + 1, bit := true } u)) := by
  have hfirst := pushStk_ok (u := u) { node := (nodeAt u e.node).one, depth := e.depth + 1, bit := true } (by omega)
  simp only [visit, h, Bool.false_eq_true, if_false, hfirst, andThen_ok]
  exact pushStk_ok _ (by rw [pushed_sp _ (by omega)]; omega)

/-- One visit. -/
theorem Walking.visit (ht : treeShape s n) (h : Walking s n seen u) (hsp : u.sp ≠ 0) :
    ∃ v k, visit (topStk u) (popStk u) = .ok () v ∧ Walking s n (k :: seen) v := by
  obtain ⟨hframe, hexp, hcodes⟩ := h
  let k := (topStk u).node.toNat
  have hpop := popStk_frame hframe
  have hnode : nodeAt (popStk u) (topStk u).node = entry s k := hpop.entry_eq k
  rw [pendingNodes, stacked_popStk hsp, List.map_cons] at hexp
  cases hleaf : (entry s k).leaf with
  | true =>
    refine ⟨_, k, visit_leaf (hnode ▸ hleaf), ?_, hexp.leaf hleaf, fun j hj hj' => ?_⟩
    · obtain ⟨ct, stk, sp, path, phase, hp⟩ := hpop
      rw [hp]
      exact ⟨_, _, _, _, _, rfl⟩
    · rw [hasCode_ctSet, hnode]
      split
      · rfl
      · next hne =>
        rcases List.mem_cons.1 hj with rfl | hj
        · exact absurd rfl hne
        · exact hcodes j hj hj'
  | false =>
    have hnext := hexp.inner ht hleaf
    have hle := hnext.pending_le
    have ⟨_, hfew, _⟩ := ht
    rw [List.length_cons, List.length_cons, List.length_map, length_stacked] at hle
    refine ⟨_, k, visit_inner (hnode ▸ hleaf) (by omega), ?_, ?_, fun j hj hj' => ?_⟩
    · obtain ⟨ct, stk, sp, path, phase, hp⟩ := hpop
      rw [hp]
      exact ⟨_, _, _, _, _, rfl⟩
    · rw [pendingNodes, stacked_pushed _ (by rw [pushed_sp _ (by omega)]; omega), stacked_pushed _ (by omega), hnode]
      exact hnext
    · rcases List.mem_cons.1 hj with rfl | hj
      · exact absurd (hleaf.symm.trans hj') (by decide)
      · exact hcodes j hj hj'

/-- The walk ends, with an empty stack, when it may make as many visits as nodes are left. -/
theorem Walking.loop (ht : treeShape s n) (h : Walking s n seen u) (hm : 2 * n - 1 ≤ seen.length + m) :
    ∃ v seen', walkLoop m u = .ok () v ∧ Walking s n seen' v ∧ v.sp = 0 := by
  induction m generalizing u seen with
  | zero =>
    have hlen := h.explored.length_le
    rw [List.length_map, length_stacked] at hlen
    have h0 : u.sp = 0 := BitVec.eq_of_toNat_eq (show u.sp.toNat = 0 by omega)
    exact ⟨u, seen, if_pos h0, h, h0⟩
  | succ m ih =>
    rw [walkLoop]
    split
    · next h0 => exact ⟨u, seen, rfl, h, h0⟩
    · next h0 =>
      obtain ⟨v, k, hv, hwalk⟩ := h.visit ht h0
      rw [hv, andThen_ok]
      exact ih hwalk (by rw [List.length_cons]; omega)

/-- When the stack is empty, every leaf has its code. -/
theorem Walking.complete (ht : treeShape s n) (h : Walking s n seen u) (h0 : u.sp = 0) {k : Nat} (hk : k < n) :
    hasCode u (entry s k).sym = true := by
  have hexp := h.explored
  have hnil : stacked u = [] := List.eq_nil_of_length_eq_zero (by rw [length_stacked, h0]; rfl)
  rw [pendingNodes, hnil, List.map_nil] at hexp
  have ⟨_, _, _, _, _, ⟨hleaf, _⟩, _⟩ := ht
  exact h.codes k (hexp.complete ht (by omega)) (hleaf k hk).1

/-- The state in which the walk puts the root on its empty stack. -/
abbrev walkStart (s : State) : State := { ctClear s with sp := 0 }

/-- The walk from the root of a tree. -/
theorem walkRoot_tree (ht : treeShape s n) :
    ∃ u, walkRoot (ctClear s) = .ok () u ∧ CodesFrame s u ∧ ∀ k < n, hasCode u (entry s k).sym = true := by
  have ⟨h1, hfew, _, hroot, _, ⟨hleaf, _⟩, hinner, _⟩ := ht
  have hnode : nodeAt (ctClear s) (ctClear s).root = entry s (2 * n - 2) := congrArg (entry s) hroot
  have hempty : (walkStart s).sp.toNat < 256 := show (0 : BitVec 9).toNat < 256 by decide
  rw [walkRoot]
  by_cases hone : n = 1
  · subst hone
    rw [if_pos (hnode ▸ (hleaf 0 one_pos).1)]
    refine ⟨_, rfl, ⟨_, _, _, _, _, rfl⟩, fun k hk => ?_⟩
    rw [hasCode_ctSet, hnode, Nat.lt_one_iff.1 hk, if_pos rfl]
  · have hroot_inner := (hinner (2 * n - 2) (by omega) (by omega)).1
    rw [if_neg (by rw [hnode, hroot_inner]; decide), pushStk_ok _ hempty, andThen_ok]
    have start : Walking s n [] (pushed { node := (ctClear s).root, depth := 0, bit := false } (walkStart s)) := by
      refine ⟨⟨_, _, _, _, _, rfl⟩, ?_, fun k hk => absurd hk List.not_mem_nil⟩
      rw [pendingNodes, stacked_pushed _ hempty]
      exact (congrArg (fun r => Explored s n [] [r]) hroot).mpr (Explored.start h1)
    obtain ⟨v, seen, hv, hwalk, h0⟩ := start.loop ht (m := 511) (by simp; omega)
    exact ⟨v, hv, hwalk.frame, fun k hk => hwalk.complete ht h0 hk⟩

/-- CODES of a tree answers a next state, in which every leaf's byte value has a code (spec/42_code_table.md R161, R166). -/
theorem exec_codes_tree (ht : treeShape s n) : ∃ u, exec .codes s = .next (toPhase .pack u) ∧ CodesFrame s u ∧
    ∀ k < n, hasCode u (entry s k).sym = true := by
  obtain ⟨u, hu, hframe, hcodes⟩ := walkRoot_tree ht
  exact ⟨u, by rw [exec, execCodes, hu]; rfl, hframe, hcodes⟩

end Walk

end Sys2Proof.Proofs

namespace Sys2Proof.Proofs

open Sys2Proof.Machine Sys2Proof.Safety

/-! # What PACK, FLUSH and DRECS leave for the phases after them -/

/-! ## The packer -/

section Packer

variable {s u : State}

theorem length_packedBits (s : State) : (packedBits s).length = 8 * s.plen.toNat + s.nb.toNat := by
  rw [packedBits, List.length_map, List.length_range]

theorem length_codeString (e : CodeEntry) : (codeString e).length = e.len.toNat := length_symbolsFrom _ _

theorem length_codedBits_le (s : State) (bs : List Byte) : (codedBits s bs).length ≤ 255 * bs.length := by
  rw [codedBits, List.length_flatMap]
  have each : ∀ n ∈ bs.map (fun b => (codeString (ctGet s b)).length), n ≤ 255 := by
    intro n hn
    obtain ⟨b, -, rfl⟩ := List.mem_map.1 hn
    exact length_codeString_le _
  simpa [Nat.mul_comm] using List.sum_le_card_nsmul _ 255 each

theorem packedByte_bitcnt (b : Byte) (u : State) :
    (packedByte b u).bitcnt = u.bitcnt + BitVec.ofNat 64 (codeString (ctGet u b)).length := by
  obtain ⟨acc, nb, pbuf, plen, h⟩ := putBits_frame (codeString (ctGet u b)) u
  rw [packedByte, putCode, h, length_codeString, BitVec.ofNat_toNat]

/-- BITCNT counts the bits of the codes PACK has put (spec/43_bit_packer.md R178). -/
theorem scanned_packedByte_bitcnt (bs : List Byte) (u : State) :
    (scanned packedByte bs u).bitcnt = u.bitcnt + BitVec.ofNat 64 (codedBits u bs).length := by
  induction bs generalizing u with
  | nil => exact (BitVec.add_zero _).symm
  | cons b bs ih =>
    have hct : (packedByte b { u with srcOkNext := u.srcOkNext.tail }).ct = u.ct := ((pack_scans u).keeps b _).1
    have hrest : codedBits (packedByte b { u with srcOkNext := u.srcOkNext.tail }) bs = codedBits u bs := by
      simp only [codedBits, ctGet, hct]
    have hcons : codedBits u (b :: bs) = codeString (ctGet u b) ++ codedBits u bs := rfl
    rw [scanned, ih, hrest, packedByte_bitcnt, hcons, List.length_append, BitVec.ofNat_add]
    exact BitVec.add_assoc _ _ _

/-- After PACK the packer holds BITCNT bits, at most 255 for each source byte (spec/43_bit_packer.md R181, R182). -/
theorem packedTo_counts (hcap : s.srcLen.toNat ≤ s.cfg.srcCap.toNat) :
    8 * (packedTo s.srcLen.toNat s).plen.toNat + (packedTo s.srcLen.toNat s).nb.toNat = (packedTo s.srcLen.toNat s).bitcnt.toNat ∧
    (packedTo s.srcLen.toNat s).bitcnt.toNat ≤ 255 * s.srcLen.toNat := by
  have hlt := s.cfg.srcCap.isLt
  have hle := length_codedBits_le s (readBytes s.src 0 s.srcLen.toNat)
  rw [length_readBytes] at hle
  have hbits : (packedTo s.srcLen.toNat s).bitcnt.toNat = (codedBits s (readBytes s.src 0 s.srcLen.toNat)).length := by
    have hcount : (packedTo s.srcLen.toNat s).bitcnt = 0 + BitVec.ofNat 64 (codedBits s (readBytes s.src 0 s.srcLen.toNat)).length :=
      scanned_packedByte_bitcnt _ _
    rw [hcount, zero_add, BitVec.toNat_ofNat]
    exact Nat.mod_eq_of_lt (by omega)
  have hlen := congrArg List.length (packedTo_packs le_rfl hcap).bits
  rw [List.length_append, length_packedBits, length_packedBits] at hlen
  have hstart : 8 * (packStart s).plen.toNat + (packStart s).nb.toNat = 0 := rfl
  omega

theorem putBit_nb (v : Bool) (u : State) : (putBit v u).nb.toNat = (u.nb.toNat + 1) % 8 := by
  by_cases h7 : u.nb = 7
  · rw [putBit, if_pos h7, h7]
    rfl
  · rw [putBit, if_neg h7]
    exact BitVec.toNat_add u.nb 1

/-- The padding of FLUSH fills the byte that is begun (spec/43_bit_packer.md R180). -/
theorem padLoop_eq (n : Nat) (u : State) (h : (8 - u.nb.toNat) % 8 ≤ n) :
    padLoop n u = putBits (List.replicate ((8 - u.nb.toNat) % 8) false) u := by
  have hnb := u.nb.isLt
  induction n generalizing u with
  | zero => rw [Nat.le_zero.1 h]; rfl
  | succ n ih =>
    rw [padLoop]
    split
    · next h0 => rw [h0]; rfl
    · next h0 =>
      have hpos : u.nb.toNat ≠ 0 := fun hz => h0 (BitVec.eq_of_toNat_eq hz)
      have hnext := putBit_nb false u
      obtain ⟨m, hm⟩ : ∃ m, (8 - u.nb.toNat) % 8 = m + 1 := ⟨7 - u.nb.toNat, by omega⟩
      rw [ih _ (by omega) (by omega), hm, List.replicate_succ, putBits]
      congr 2
      omega

/-- FLUSH puts zero bits to the end of the byte, and at least one (spec/43_bit_packer.md R180). -/
theorem exec_flush (s : State) :
    exec .flush s = .next (toPhase .emit (putBits (List.replicate (8 - s.nb.toNat) false) s)) := by
  have hnb := s.nb.isLt
  have hnext := putBit_nb false s
  obtain ⟨m, hm⟩ : ∃ m, 8 - s.nb.toNat = m + 1 := ⟨7 - s.nb.toNat, by omega⟩
  have hpad : (8 - (putBit false s).nb.toNat) % 8 = m := by omega
  rw [exec, execFlush, padLoop_eq _ _ (by omega), hpad, hm, List.replicate_succ, putBits]

/-- FLUSH completes the byte that is begun. -/
theorem flushed_plen (h : s.plen.toNat + 8 < 2 ^ 64) :
    (putBits (List.replicate (8 - s.nb.toNat) false) s).plen.toNat = s.plen.toNat + 1 := by
  have hnb := s.nb.isLt
  have hlen := congrArg List.length
    (putBits_packs (s := s) (List.replicate (8 - s.nb.toNat) false) (by rw [List.length_replicate]; omega)).bits
  rw [List.length_append, length_packedBits, length_packedBits, List.length_replicate] at hlen
  have := (putBits (List.replicate (8 - s.nb.toNat) false) s).nb.isLt
  omega

end Packer

/-! ## The records -/

section Records

variable {s t u v : State} {x : Unit}

/-- A record that was read left a non-zero entry of FT (spec/45_container_codec.md R216). -/
theorem readRecord_counts (h : readRecord u = .ok x v) : ∃ b, ftGet v b ≠ 0 := by
  rw [readRecord_eq] at h
  split_ifs at h with h1 h2 h3 h4 hbad <;> cases h
  have hfreq : recFreq u u.reci.toNat ≠ 0 := fun h0 => hbad (decide_eq_true (.inr h0))
  have hlt : recFreq u u.reci.toNat < 256 ^ 8 := by
    simpa [recFreq] using leNat_lt (readBytes u.src (9 + 9 * u.reci.toNat) 8)
  refine ⟨recByte u u.reci.toNat, ?_⟩
  have hget : ftGet (recLoaded u) (recByte u u.reci.toNat) = BitVec.ofNat 64 (recFreq u u.reci.toNat) :=
    (ftGet_ftSet _ _ _ (sampled (sampled u))).trans (if_pos rfl)
  rw [hget]
  intro h0
  have := congrArg BitVec.toNat h0
  rw [BitVec.toNat_ofNat, Nat.mod_eq_of_lt (by omega)] at this
  exact hfreq this

theorem readRecords_counts (n : Nat) (hu : 1 ≤ n ∨ ∃ b, ftGet u b ≠ 0) (h : readRecords n u = .ok x t) : ∃ b, ftGet t b ≠ 0 := by
  induction n generalizing u with
  | zero => exact (Res.ok.inj h).2 ▸ hu.resolve_left (by decide)
  | succ n ih =>
    obtain ⟨_, v, hv, h⟩ := (andThen_eq_ok _ _ _ _).1 h
    exact ih (.inr (readRecord_counts hv)) h

/-- DRECS always answers a next state: the table of the records, or an abort. -/
theorem exec_drecs_ends (s : State) :
    (∃ u, exec .drecs s = .next (toPhase .leaves u) ∧ DrecsFrame s u ∧ (1 ≤ s.nchar.toNat → ∃ b, ftGet u b ≠ 0)) ∨
    ∃ t, exec .drecs s = .next t ∧ t.phase = phaseCode .error := by
  have loop := readRecords_meets s.nchar.toNat (s := s) (u := drecsStart s) ⟨_, _, _, _, rfl⟩
  rw [exec, execDrecs]
  cases hr : readRecords s.nchar.toNat (drecsStart s) with
  | ok x u =>
    rw [hr] at loop
    exact .inl ⟨u, rfl, loop, fun h1 => readRecords_counts _ (.inl h1) hr⟩
  | abort v =>
    rw [hr] at loop
    obtain ⟨e, c, u, -, rfl⟩ := loop
    exact .inr ⟨_, rfl, rfl⟩
  | fault f =>
    rw [hr] at loop
    exact loop.elim

end Records

end Sys2Proof.Proofs

namespace Sys2Proof.Proofs

open Sys2Proof.Machine Sys2Proof.Safety

/-! # The invariant of the engine: every phase finds what it needs, ends, and leaves what the next one needs -/

/-! ## What each phase finds -/

section Needs

variable {i j : Instr} {s t : State} {n : Nat}

/-- The arena holds the tree of the bytes that FT counts. -/
abbrev treeBuilt (s : State) : Prop := ∃ n ∈ List.range 257, treeShape s n ∧ leavesCover s n

/-- In COMPRESS every source byte was counted. -/
abbrev countedSource (s : State) : Prop := s.mode = .compress → sourceCounted s

/-- What the phase `i` finds when it starts: the part of `phaseReady` that speaks of it. -/
def Needs : Instr → State → Prop
  | .drecs, s => 1 ≤ s.nchar.toNat ∧ s.nchar.toNat ≤ 256
  | .leaves, s => (s.mode = .decompress → 1 ≤ (presentBytes s).length) ∧ countedSource s
  | .merge, s => (∃ n ∈ List.range 257, leavesReady s n ∧ leavesCover s n ∧
      (s.mode = .decompress → 1 ≤ n) ∧ (s.mode = .compress → s.nchar.toNat = n)) ∧ countedSource s
  | .codes, s => treeBuilt s ∧ countedSource s
  | .pack, s => (∀ b : Byte, ftGet s b ≠ 0 → hasCode s b = true) ∧ countedSource s
  | .flush, s => 8 * s.plen.toNat + s.nb.toNat = s.bitcnt.toNat ∧ s.bitcnt.toNat ≤ 255 * s.srcLen.toNat
  | .emit, s => s.nchar = 0 ∨ (s.plen.toNat = s.bitcnt.toNat / 8 + 1 ∧ s.bitcnt.toNat ≤ 255 * s.srcLen.toNat)
  | .dbits, s => treeBuilt s
  | .decode, s => treeBuilt s ∧ s.paylen.toNat = ceil8 s.bitcnt.toNat ∧ s.poff.toNat + s.paylen.toNat ≤ s.srcLen.toNat
  | _, _ => True

theorem decodePhase_phaseCode (hi : formatOf i = .phase) : decodePhase (phaseCode i) = i := by
  cases i with
  | nop | compress | decompress | cmdReserved3 => cases hi
  | _ => rfl

/-- Two phases are told apart by their codes. -/
theorem phaseCode_eq_iff (hi : formatOf i = .phase) (hj : formatOf j = .phase) : phaseCode i = phaseCode j ↔ i = j := by
  refine ⟨fun h => ?_, congrArg phaseCode⟩
  rw [← decodePhase_phaseCode hi, h, decodePhase_phaseCode hj]

theorem phaseReady_iff (hi : formatOf i = .phase) (hp : s.phase = phaseCode i) : phaseReady s ↔ Needs i s := by
  have at_iff (j : Instr) (hj : formatOf j = .phase) : s.phase = phaseCode j ↔ i = j := hp ▸ phaseCode_eq_iff hi hj
  simp only [phaseReady, at_iff .drecs rfl, at_iff .leaves rfl, at_iff .merge rfl, at_iff .codes rfl, at_iff .dbits rfl,
    at_iff .decode rfl, at_iff .pack rfl, at_iff .flush rfl, at_iff .emit rfl]
  cases i <;> simp [Needs, treeBuilt]

/-- Phases that find nothing made. -/
theorem phaseReady_free (hp : s.phase ∈ [Instr.idle, .hist, .dhdr, .done, .error].map phaseCode) : phaseReady s := by
  obtain ⟨i, hi, hp⟩ := List.mem_map.1 hp
  have free : formatOf i = .phase ∧ Needs i s := by fin_cases hi <;> exact ⟨rfl, trivial⟩
  exact (phaseReady_iff free.1 hp.symm).2 free.2

theorem phaseReady_error (hp : s.phase = phaseCode .error) : phaseReady s := phaseReady_free (hp ▸ by decide)

end Needs

/-! ## Each phase ends, and leaves what the next one needs -/

section Advance

variable {i : Instr} {s t u : State} {n : Nat}

/-- The operation answers a next state, and the phase it goes to finds what it needs. -/
def Advances (i : Instr) (s : State) : Prop := ∃ t, exec i s = .next t ∧ phaseReady t

/-- An operation that goes on to the phase `j`. -/
theorem Advances.to {j : Instr} (h : exec i s = .next (toPhase j u)) (hj : formatOf j = .phase) (hneeds : Needs j (toPhase j u)) :
    Advances i s :=
  ⟨_, h, (phaseReady_iff hj rfl).2 hneeds⟩

theorem Advances.aborts {e : ErrKind} {c : SubCause} (h : exec i s = .next (takeAbort e c u)) : Advances i s :=
  ⟨_, h, phaseReady_error rfl⟩

theorem Advances.done {m : Nat} (h : exec i s = .next (enterDone m u)) : Advances i s :=
  ⟨_, h, phaseReady_free (show phaseCode .done ∈ _ by decide)⟩

/-- HIST counts every source byte (spec/40_histogram.md R122). -/
theorem hist_advances (hm : s.mode = .compress) : Advances .hist s := by
  obtain hready | ⟨k, hk, hready, hbad⟩ := ready_or_firstBad (srcSample s) s.srcLen.toNat
  · have hexec := exec_hist_ready hready
    have counts (b : Byte) : ftGet (scanned histCount (sourceBytes s) (histStart s)) b = BitVec.ofNat 64 ((sourceBytes s).count b) := by
      rw [ftGet_scanned_histCount, ftGet_histStart, zero_add]
    obtain ⟨ft, idx, next, hframe⟩ := scanned_histCount_frame (sourceBytes s) (histStart s)
    rw [hframe] at hexec counts
    refine .to hexec rfl ⟨fun hd => absurd (hm.symm.trans hd) (by decide), fun _ a ha h0 => ?_⟩
    have hmem : readByte s.src a ∈ sourceBytes s := by
      rw [sourceBytes, readBytes_eq_map]
      exact List.mem_map.2 ⟨a, List.mem_range.2 ha, by rw [Nat.zero_add]⟩
    have hpos := List.count_pos_iff.2 hmem
    have hle : (sourceBytes s).count (readByte s.src a) ≤ s.srcLen.toNat :=
      List.count_le_length.trans_eq (length_readBytes _ _ _)
    have hzero := congrArg BitVec.toNat ((counts (readByte s.src a)).symm.trans h0)
    rw [BitVec.toNat_ofNat, Nat.mod_eq_of_lt (hle.trans_lt s.srcLen.isLt)] at hzero
    exact hpos.ne' hzero
  · exact .aborts (exec_hist_stops hk hready hbad)

theorem leaves_advances (h : Needs .leaves s) : Advances .leaves s := by
  obtain ⟨hsome, hcounted⟩ := h
  obtain ⟨u, hrows, hu⟩ := exec_leaves s
  obtain ⟨hready, hcover⟩ := hrows.ready
  have hlen := length_presentBytes_le s
  obtain ⟨⟨node, active, hframe⟩, -⟩ := hrows
  have hmode : u.mode = s.mode := by rw [hframe]
  refine .to hu rfl ⟨⟨_, List.mem_range.2 (Nat.lt_succ_of_le hlen), hready, hcover, ?_, fun hm => ?_⟩, ?_⟩
  · exact fun hd => hsome (hmode ▸ hd)
  · have : (if s.mode = .compress then u.nnode else s.nchar) = u.nnode := if_pos (hmode ▸ hm)
    have ⟨_, hnnode, _⟩ := hready
    exact (congrArg BitVec.toNat this).trans hnnode
  · rw [hframe]
    exact hcounted

/-- MERGE builds the tree, or finds no leaves. -/
theorem merge_advances (h : Needs .merge s) : Advances .merge s := by
  obtain ⟨⟨n, hn, hready, hcover, hsome, hnchar⟩, hcounted⟩ := h
  by_cases h0 : n = 0
  · have hmode : s.mode = .compress := by
      cases hm : s.mode with
      | compress => rfl
      | decompress => exact absurd (hsome hm) (by omega)
    have hnext : afterMerge { s with rootValid := false } = .emit := by simp [afterMerge, hmode]
    have ⟨_, _, hnact, _⟩ := hready
    have hexec := exec_merge_none (s := s) (hnact.trans h0)
    rw [hnext] at hexec
    exact .to hexec rfl (.inl (BitVec.eq_of_toNat_eq ((hnchar hmode).trans h0)))
  · obtain ⟨u, hf, hone, ⟨⟨node, active, nnode, nact, hframe⟩, hleaves⟩, hexec⟩ := exec_merge_leaves (P := MergeFrame n s)
      (fun _ _ _ _ => MergeFrame.merged) hready (by omega) ⟨⟨_, _, _, _, rfl⟩, fun _ _ => rfl⟩
    have hft : ftGet u = ftGet s := by rw [hframe]; rfl
    have htree : treeBuilt (rooted n u) := by
      refine ⟨n, hn, hf.tree hone, fun b => ?_⟩
      show ftGet u b ≠ 0 ↔ ∃ k ∈ List.range n, (entry u k).sym = b
      rw [hft, hcover b]
      exact exists_congr fun k => and_congr_right fun hk => by rw [hleaves k (List.mem_range.1 hk)]
    have hcounted' : countedSource (rooted n u) := by rw [hframe]; exact hcounted
    cases hm : u.mode with
    | compress =>
      have hnext : afterMerge (rooted n u) = .codes := by simp [afterMerge, hm]
      rw [hnext] at hexec
      exact .to hexec rfl ⟨htree, hcounted'⟩
    | decompress =>
      have hnext : afterMerge (rooted n u) = .dbits := by simp [afterMerge, hm]
      rw [hnext] at hexec
      exact .to hexec rfl htree

theorem codes_advances (h : Needs .codes s) : Advances .codes s := by
  obtain ⟨⟨n, hn, htree, hcover⟩, hcounted⟩ := h
  obtain ⟨u, hu, ⟨ct, stk, sp, path, phase, rfl⟩, hcodes⟩ := exec_codes_tree htree
  refine .to hu rfl ⟨fun b hb => ?_, hcounted⟩
  obtain ⟨k, hk, rfl⟩ := (hcover b).1 hb
  exact hcodes k (List.mem_range.1 hk)

theorem pack_advances (h : Needs .pack s) (hm : s.mode = .compress) (hcap : s.srcLen.toNat ≤ s.cfg.srcCap.toNat) :
    Advances .pack s := by
  obtain ⟨hcodes, hcounted⟩ := h
  have coded (j : Nat) (hj : j < s.srcLen.toNat) : hasCode s (readByte s.src j) = true := hcodes _ (hcounted hm j hj)
  obtain hready | ⟨k, hk, hready, hbad⟩ := ready_or_firstBad (srcSample s) s.srcLen.toNat
  · obtain ⟨hbits, hbound⟩ := packedTo_counts hcap
    have hexec := exec_pack_ready ⟨hready, coded⟩
    obtain ⟨acc, nb, bitcnt, pbuf, plen, idx, next, hframe⟩ :=
      scanned_packedByte_frame (readBytes s.src 0 s.srcLen.toNat) (packStart s)
    rw [packedTo, hframe] at hexec hbits hbound
    exact .to hexec rfl ⟨hbits, hbound⟩
  · exact .aborts (exec_pack_stops hk ⟨hready, fun j hj => coded j (hj.trans hk)⟩ hbad)

theorem flush_advances (h : Needs .flush s) (hcap : s.srcLen.toNat ≤ s.cfg.srcCap.toNat) : Advances .flush s := by
  obtain ⟨hbits, hbound⟩ := h
  have hlt := s.cfg.srcCap.isLt
  have hnb := s.nb.isLt
  have hplen := flushed_plen (s := s) (by omega)
  obtain ⟨acc, nb, pbuf, plen, hframe⟩ := putBits_frame (List.replicate (8 - s.nb.toNat) false) s
  have hexec := exec_flush s
  rw [hframe] at hexec hplen
  have hbytes : s.plen.toNat + 1 = s.bitcnt.toNat / 8 + 1 := by omega
  exact .to hexec rfl (.inr ⟨hplen.trans hbytes, hbound⟩)

theorem emit_advances (s : State) : Advances .emit s := by
  obtain ⟨symi, emi, h | ⟨k, -, h⟩⟩ := exec_emit_cases s
  · exact .done h
  · exact .aborts h

theorem dhdr_advances (s : State) : Advances .dhdr s := by
  have h := exec_dhdr s
  split_ifs at h with hbad hshort hzero hbig
  · exact .aborts h
  · exact .aborts h
  · exact .done h
  · exact .aborts h
  · have hcount : (BitVec.ofNat 9 (charCount s)).toNat = charCount s := Nat.mod_eq_of_lt (by omega)
    exact .to h rfl ⟨(Nat.one_le_iff_ne_zero.2 hzero).trans_eq hcount.symm, hcount.le.trans (not_lt.1 hbig)⟩

theorem drecs_advances (h : Needs .drecs s) (hm : s.mode = .decompress) : Advances .drecs s := by
  obtain ⟨u, hu, ⟨ft, reci, prev, next, rfl⟩, hsome⟩ | ⟨t, ht, herror⟩ := exec_drecs_ends s
  · refine .to hu rfl ⟨fun _ => ?_, fun hc => absurd (hm.symm.trans hc) (by decide)⟩
    obtain ⟨hpos, -⟩ := h
    obtain ⟨b, hb⟩ := hsome hpos
    exact List.length_pos_of_mem ((mem_presentBytes _ b).2 hb)
  · exact ⟨t, ht, phaseReady_error herror⟩

theorem dbits_advances (h : Needs .dbits s) : Advances .dbits s := by
  have hexec := exec_dbits s
  obtain ⟨hbitcnt, hpaylen, hpoff⟩ := bitsRead_values s
  split_ifs at hexec with hbad hshort hlong
  · exact .aborts hexec
  · exact .aborts hexec
  · exact .aborts hexec
  · refine .to hexec rfl ⟨h, hpaylen.trans (congrArg ceil8 hbitcnt.symm), ?_⟩
    show (bitsRead s).poff.toNat + (bitsRead s).paylen.toNat ≤ s.srcLen.toNat
    rw [hpoff, hpaylen]
    omega

theorem decode_advances (h : Needs .decode s) (hcap : s.srcLen.toNat ≤ s.cfg.srcCap.toNat) : Advances .decode s := by
  obtain ⟨-, -, hinside⟩ := h
  have hlt := s.cfg.srcCap.isLt
  obtain ⟨hwrap, -⟩ | ⟨u, -, h | ⟨e, c, -, h⟩⟩ := exec_decode_cases s
  · exact absurd hwrap (by omega)
  · exact .done h
  · exact .aborts h

end Advance

end Sys2Proof.Proofs

namespace Sys2Proof.Proofs

open Sys2Proof.Machine Sys2Proof.Safety

/-! # The engine never stops, and every step keeps its invariant -/

section Engine

variable {i : Instr} {s t : State}

/-- Every phase of the engine ends, and goes to a phase that finds what it needs. -/
theorem phase_advances (hs : engineOk s) (hi : formatOf i = .phase) (hp : s.phase = phaseCode i) : Advances i s := by
  obtain ⟨hcontrol, hready⟩ := hs
  have needs : Needs i s := (phaseReady_iff hi hp).1 hready
  have cap (h : i ∈ workPhases) : s.srcLen.toNat ≤ s.cfg.srcCap.toNat := (running_of_controlOk hcontrol hp h).cap
  obtain ⟨hle, hcomp, hdecomp, -⟩ := hcontrol
  rw [hp] at hle hcomp hdecomp
  cases i with
  | nop | compress | decompress | cmdReserved3 => cases hi
  | idle | done | error => exact ⟨s, rfl, hready⟩
  | hist => exact hist_advances (hcomp (by decide))
  | leaves => exact leaves_advances needs
  | merge => exact merge_advances needs
  | codes => exact codes_advances needs
  | pack => exact pack_advances needs (hcomp (by decide)) (cap (by decide))
  | flush => exact flush_advances needs (cap (by decide))
  | emit => exact emit_advances s
  | dhdr => exact dhdr_advances s
  | drecs => exact drecs_advances needs (hdecomp (by decide))
  | dbits => exact dbits_advances needs
  | decode => exact decode_advances needs (cap (by decide))
  | phaseUnreachable14 | phaseUnreachable15 => exact absurd hle (by decide)

/-- A command leaves a phase that finds what it needs: it is ignored, or the first phase finds nothing made (spec/46_commands_fsm.md R231 to R235). -/
theorem command_keeps_ready (hs : phaseReady s) (hi : formatOf i = .cmd) (h : exec i s = .next t) : phaseReady t := by
  have started {m : Mode} {j : Instr} (hc : commandStart i = some (m, j))
      (hj : phaseCode j ∈ [Instr.idle, .hist, .dhdr, .done, .error].map phaseCode) : phaseReady t := by
    obtain rfl | rfl | ⟨c, rfl⟩ := exec_command_cases hc h
    · exact hs
    · exact phaseReady_free hj
    · exact phaseReady_error rfl
  cases i with
  | nop | cmdReserved3 => cases h; exact hs
  | compress => exact started rfl (by decide)
  | decompress => exact started rfl (by decide)
  | _ => cases hi

theorem exec_keeps_ready (hs : engineOk s) (hi : formatOf i = .phase → s.phase = phaseCode i) (h : exec i s = .next t) :
    phaseReady t := by
  have ⟨_, hready⟩ := hs
  cases hf : formatOf i with
  | cmd => exact command_keeps_ready hready hf h
  | phase =>
    obtain ⟨t', ht', hready⟩ := phase_advances hs hf (hi hf)
    exact Host.Outcome.next.inj (ht'.symm.trans h) ▸ hready

/-! ## The moves of the host -/

/-- While no command runs, no phase needs anything. -/
theorem phaseReady_of_not_busy (h : busy s = false) : phaseReady s := by
  have resting : ∀ ph : BitVec 4, (statusOf ph == 1) = false → ph ∈ [Instr.idle, .hist, .dhdr, .done, .error].map phaseCode := by
    decide
  exact phaseReady_free (resting _ h)

/-- The bytes below SRC_LEN are as they were. -/
abbrev sourceKept (s t : State) : Prop := ∀ a < s.srcLen.toNat, readByte t.src a = readByte s.src a

theorem placeSource_keeps_source {off : Nat} {bs : List Byte} (hb : busy s = true) (h : placeSource off bs s = .next t) :
    sourceKept s t := by
  intro a ha
  unfold placeSource at h
  split_ifs at h with hw hno
  cases h
  rw [readByte_writeBytes, dif_neg]
  rintro ⟨hoff, hlt⟩
  refine hno ?_
  have hne : bs ≠ [] := fun h0 => by rw [h0] at hlt; exact Nat.not_lt_zero _ hlt
  simp [hb, hne]
  omega

/-- While a command runs no step changes the source below SRC_LEN (spec/70_reset_and_hazards.md R286, spec/93_implementation_defined.md U9). -/
theorem step_keeps_source (hb : busy s = true) (h : step s = .next t) : sourceKept s t := by
  have same (he : t.src = s.src) : sourceKept s t := fun a _ => by rw [he]
  have ran {s' : State} {i : Instr} (hs' : s'.src = s.src) (he : exec i s' = .next t) : sourceKept s t := by
    obtain ⟨⟨hsrc, -⟩, -⟩ := (exec_effect he).framed
    exact same (hsrc.trans hs')
  rcases hs : s.host with _ | ⟨m, rest⟩
  · exact ran rfl (step_nil hs ▸ h)
  · cases m with
    | regWrite n v =>
      by_cases hn : n = 0
      · subst hn
        exact ran (s' := { s with host := rest }) rfl (step_command hs ▸ h)
      · have hw := step_regWrite hs hn ▸ h
        unfold regWrite at hw
        split_ifs at hw <;> cases hw <;> exact same rfl
    | placeSource off bs => exact placeSource_keeps_source (s := { s with host := rest }) hb (step_placeSource hs ▸ h)
    | regRead n => exact same (Host.Outcome.next.inj ((step_regRead hs).symm.trans h) ▸ rfl)
    | driveSrcOk next level => exact same (Host.Outcome.next.inj ((step_driveSrcOk hs).symm.trans h) ▸ rfl)
    | driveSnkOk next level => exact same (Host.Outcome.next.inj ((step_driveSnkOk hs).symm.trans h) ▸ rfl)
    | drainSink n => exact same (Host.Outcome.next.inj ((step_drainSink hs).symm.trans h) ▸ rfl)
    | rst => exact same (Host.Outcome.next.inj ((step_rst hs).symm.trans h) ▸ (applyReset_keeps _).1)
    | engine => exact ran (s' := { s with host := rest }) rfl (step_engine hs ▸ h)
    | wait => exact ran rfl (step_wait_busy hs hb ▸ h)

/-- Of the source a phase needs the bytes below SRC_LEN alone. -/
theorem phaseReady_placed {src : Memory} (hs : phaseReady s) (hsrc : sourceKept s { s with src := src }) :
    phaseReady { s with src := src } := by
  obtain ⟨hdrecs, hleaves, hmerge, htree, hpack, hcounted, hflush, hemit, hdecode⟩ := hs
  refine ⟨hdrecs, hleaves, hmerge, htree, hpack, fun hp hm a ha => ?_, hflush, hemit, hdecode⟩
  show ftGet s (readByte src a) ≠ 0
  rw [show readByte src a = readByte s.src a from hsrc a ha]
  exact hcounted hp hm a ha

theorem HostEffect.phaseReady (h : HostEffect s t) (hs : phaseReady s) (hsrc : busy s = true → sourceKept s t) :
    Safety.phaseReady t := by
  cases h with
  | writesSrcLen v hbusy => exact phaseReady_of_not_busy hbusy
  | places off bs =>
    cases hb : busy s with
    | true => exact phaseReady_placed hs (hsrc hb)
    | false => exact phaseReady_of_not_busy hb
  | resets => exact phaseReady_of_not_busy (show (statusOf (phaseCode .idle) == 1) = false by decide)
  | _ => exact hs

end Engine

/-- Settles O59: every phase that finds what it needs ends in a next state. -/
theorem engineNeverStops : Obligations.EngineNeverStops := by
  intro s hs
  obtain ⟨t, ht, -⟩ := phase_advances hs (formatOf_decodePhase s.phase) (phaseCode_decodePhase s.phase).symm
  exact ⟨t, ht⟩

/-- Settles O57: every phase leaves what the next one needs, and the host does not touch it. -/
theorem stepKeepsEngineInvariant : Obligations.StepKeepsEngineInvariant := by
  intro s t hs h
  have ⟨hcontrol, hready⟩ := hs
  refine ⟨stepKeepsControl s t hcontrol h, ?_⟩
  obtain ⟨rest, ⟨i, hi, he⟩ | hm⟩ := step_cases h
  · exact exec_keeps_ready (s := { s with host := rest }) hs hi he
  · exact hm.phaseReady hready fun hb => step_keeps_source (s := s) hb h

end Sys2Proof.Proofs

namespace Sys2Proof.Proofs

open Sys2Proof.Machine Sys2Proof.Safety

/-! # The paths of a tree, and the codes CODES makes of them

`Coding` is the second invariant of the walk of spec/42_code_table.md R163, beside `Walking`: the branch labels that PATH and the entries on
the stack hold are paths from ROOT, and so is every code written. -/

/-! ## Paths -/

section Paths

variable {s t : State} {n : Nat} {i j k l : NodeIdx} {p q : List Bool}

theorem follow_append (s : State) (i : NodeIdx) (p q : List Bool) :
    follow s i (p ++ q) = (follow s i p).bind fun k => follow s k q := by
  induction p generalizing i with
  | nil => rfl
  | cons v p ih =>
    rw [List.cons_append, follow, follow]
    split
    · rfl
    · exact ih _

/-- A path of one label more goes through an internal node. -/
theorem follow_snoc {v : Bool} : follow s i (p ++ [v]) = some j ↔
    ∃ k, follow s i p = some k ∧ isLeaf s k = false ∧ childOf (nodeAt s k) v = j := by
  simp [follow_append, Option.bind_eq_some_iff, follow, isLeaf]

/-- No path goes on from a leaf. -/
theorem follow_leaf (hi : isLeaf s i = true) (h : follow s i p = some j) : p = [] ∧ i = j := by
  cases p with
  | nil => exact ⟨rfl, Option.some.inj h⟩
  | cons v p =>
    rw [follow, if_pos (show (nodeAt s i).leaf = true from hi)] at h
    cases h

theorem follow_ne_nil (hi : isLeaf s i = false) (hj : isLeaf s j = true) (h : follow s i p = some j) : p ≠ [] := by
  rintro rfl
  cases h
  exact absurd (hi.symm.trans hj) (by decide)

theorem isParent_childOf (hi : isLeaf s i = false) (v : Bool) : isParent s i.toNat (childOf (nodeAt s i) v).toNat := by
  cases v with
  | false => exact ⟨hi, .inl rfl⟩
  | true => exact ⟨hi, .inr rfl⟩

/-- Along a path the arena index falls with every label (spec/41_tree_builder.md R145). -/
theorem follow_descends (ht : treeShape s n) (hi : i.toNat < 2 * n - 1) (h : follow s i p = some j) :
    j.toNat + p.length ≤ i.toNat := by
  induction p generalizing i with
  | nil => exact (congrArg BitVec.toNat (Option.some.inj h)).ge
  | cons v p ih =>
    rw [follow] at h
    split at h
    · cases h
    · next hleaf =>
      have hchild := child_lt ht (isParent_childOf (Bool.eq_false_iff.2 hleaf) v) hi
      have := ih (hchild.trans hi) h
      rw [List.length_cons]
      omega

theorem rootPath_descends (ht : treeShape s n) (h : follow s s.root p = some j) : j.toNat + p.length ≤ 2 * n - 2 := by
  have ⟨h1, _, _, hroot, _⟩ := ht
  exact hroot ▸ follow_descends ht (by omega) h

theorem le_of_inner (ht : treeShape s n) (hi : isLeaf s i = false) : n ≤ i.toNat :=
  inner_of_isParent ht (isParent_childOf hi false)

/-- A leaf on a path from ROOT is one of the first `n` entries (spec/41_tree_builder.md R147). -/
theorem lt_of_leaf (ht : treeShape s n) (h : follow s s.root p = some l) (hl : isLeaf s l = true) : l.toNat < n := by
  have hle := rootPath_descends ht h
  obtain ⟨h1, -, -, -, -, -, hinner, -⟩ := ht
  by_contra hge
  exact absurd (hl.symm.trans (hinner l.toNat (by omega) (by omega)).1) (by decide)

/-- The leaves have different byte values. -/
theorem leaf_sym_inj (ht : treeShape s n) {a b : Nat} (ha : a < n) (hb : b < n) (h : (entry s a).sym = (entry s b).sym) :
    a = b := by
  obtain ⟨-, -, -, -, -, ⟨-, hrise⟩, -⟩ := ht
  rcases Nat.lt_trichotomy a b with hab | hab | hab
  · exact absurd (congrArg BitVec.toNat h) (hrise b hb a hab).ne
  · exact hab
  · exact absurd (congrArg BitVec.toNat h) (hrise a ha b hab).ne'

theorem childOf_inj (ht : treeShape s n) (hi : i.toNat < 2 * n - 1) (hleaf : isLeaf s i = false) {v w : Bool}
    (h : childOf (nodeAt s i) v = childOf (nodeAt s i) w) : v = w := by
  have hn := le_of_inner ht hleaf
  obtain ⟨-, -, -, -, -, -, hinner, -⟩ := ht
  obtain ⟨-, -, -, hne⟩ : _ ∧ _ ∧ _ ∧ (nodeAt s i).zero ≠ (nodeAt s i).one := hinner i.toNat hi hn
  cases v <;> cases w
  · rfl
  · exact absurd h hne
  · exact absurd h.symm hne
  · rfl

/-- A node is reached from ROOT along one path only, since it has one parent (spec/41_tree_builder.md R150). -/
theorem rootPath_unique (ht : treeShape s n) (hp : follow s s.root p = some j) (hq : follow s s.root q = some j) : p = q := by
  have ⟨h1, _, _, hroot, _⟩ := ht
  have below {r : List Bool} {k : NodeIdx} (hr : follow s s.root r = some k) : k.toNat + r.length ≤ 2 * n - 2 :=
    rootPath_descends ht hr
  have short {r : List Bool} (hr : follow s s.root r = some s.root) : r = [] :=
    List.eq_nil_of_length_eq_zero (by have := below hr; omega)
  induction p using List.reverseRecOn generalizing q j with
  | nil =>
    cases hp
    exact (short hq).symm
  | append_singleton p v ih =>
    cases q using List.reverseRecOn with
    | nil =>
      cases hq
      exact short hp
    | append_singleton q w =>
      have hlt := below hp
      rw [List.length_append, List.length_singleton] at hlt
      obtain ⟨a, ha, hleaf, rfl⟩ := follow_snoc.1 hp
      obtain ⟨b, hb, hleaf', hchild⟩ := follow_snoc.1 hq
      have hab := below ha
      have hbb := below hb
      obtain ⟨c, -, -, hunique⟩ := exists_unique_parent ht (i := (childOf (nodeAt s a) v).toNat) (by omega)
      have hac := hunique a.toNat (by omega) (isParent_childOf hleaf v)
      have hbc := hunique b.toNat (by omega) (hchild ▸ isParent_childOf hleaf' w)
      obtain rfl : a = b := BitVec.eq_of_toNat_eq (hac.trans hbc.symm)
      rw [ih ha hb, childOf_inj ht (by omega) hleaf hchild]

/-- No path to a leaf begins a path to another leaf. -/
theorem eq_of_rootPath_begins (hp : follow s s.root p = some l) (hl : isLeaf s l = true) (hq : follow s s.root q = some k)
    (h : p <+: q) : l = k := by
  obtain ⟨r, rfl⟩ := h
  rw [follow_append, hp] at hq
  exact (follow_leaf hl hq).2

end Paths

/-! ## PATH and the labels of the stack -/

section Labels

variable {s u v : State} {e f : StkEntry}

/-- The path of branch labels to the node of a stack entry: cells `0 .. DEPTH-2` of PATH, then the label the entry brings
(spec/42_code_table.md R163). -/
def labels (path : Vector Bool 255) (e : StkEntry) : List Bool :=
  if e.depth = 0 then [] else path.toList.take (e.depth.toNat - 1) ++ [e.bit]

theorem toList_setEntry {α : Type} {n : Nat} (w : Vector α n) (i : Nat) (a : α) : (setEntry w i a).toList = w.toList.set i a := by
  unfold setEntry
  split
  · exact Vector.toList_set ..
  · next h => rw [List.set_eq_of_length_le (by simpa using h)]

theorem length_labels (path : Vector Bool 255) (e : StkEntry) : (labels path e).length = e.depth.toNat := by
  have := e.depth.isLt
  unfold labels
  split
  · next h0 => rw [h0]; rfl
  · next h0 =>
    have hpos : e.depth.toNat ≠ 0 := fun h => h0 (BitVec.eq_of_toNat_eq h)
    rw [List.length_append, List.length_take, Vector.length_toList, List.length_singleton]
    omega

/-- A pop writes the label of its entry into PATH. -/
theorem take_popStk_path (u : State) : (popStk u).path.toList.take (topStk u).depth.toNat = labels u.path (topStk u) := by
  have hlt := (topStk u).depth.isLt
  by_cases h0 : (topStk u).depth = 0
  · rw [labels, if_pos h0, h0]
    rfl
  · obtain ⟨d, hd⟩ := Nat.exists_eq_succ_of_ne_zero fun h => h0 (BitVec.eq_of_toNat_eq h)
    have hpath : (popStk u).path = setEntry u.path ((topStk u).depth.toNat - 1) (topStk u).bit := if_neg h0
    rw [labels, if_neg h0, hpath, toList_setEntry, hd, Nat.succ_sub_one, List.take_succ_eq_append_getElem (by simp; omega),
      List.getElem_set_self, List.take_set_of_le le_rfl]

/-- A pop leaves the labels of the entries alone that are no deeper than the popped one. -/
theorem labels_popStk (h : f.depth.toNat ≤ (topStk u).depth.toNat) : labels (popStk u).path f = labels u.path f := by
  by_cases h0 : (topStk u).depth = 0
  · have hpath : (popStk u).path = u.path := if_pos h0
    rw [hpath]
  · have hpath : (popStk u).path = setEntry u.path ((topStk u).depth.toNat - 1) (topStk u).bit := if_neg h0
    rw [hpath, labels, labels, toList_setEntry, List.take_set_of_le (by omega)]

/-- The labels of an entry that a visit of the popped node pushes. -/
theorem labels_child (hdepth : (topStk u).depth.toNat + 1 < 2 ^ 8) (i : NodeIdx) (w : Bool) :
    labels (popStk u).path { node := i, depth := (topStk u).depth + 1, bit := w } = labels u.path (topStk u) ++ [w] := by
  have hsucc : ((topStk u).depth + 1).toNat = (topStk u).depth.toNat + 1 := BitVec.toNat_add_of_lt (y := 1) hdepth
  have hne : (topStk u).depth + 1 ≠ 0 := fun h => by
    have := congrArg BitVec.toNat h
    rw [hsucc] at this
    exact absurd this (Nat.succ_ne_zero _)
  rw [labels, if_neg hne, hsucc, Nat.add_sub_cancel, take_popStk_path]

/-- One symbol more at the end of a code string. -/
theorem symbolsFrom_snoc (bits : BitVec 255) (w : Bool) {m : Nat} (hm : m < 255) :
    symbolsFrom ((bits <<< 1) ||| BitVec.setWidth 255 (BitVec.ofBool w)) (m + 1) = symbolsFrom bits m ++ [w] := by
  induction m with
  | zero => simp [symbolsFrom]
  | succ m ih =>
    rw [symbolsFrom, ih (by omega), symbolsFrom, List.cons_append]
    congr 1
    simp [hm, BitVec.getLsbD_eq_getElem (show m < 255 by omega)]

/-- The register form of a code holds the cells of PATH, first one first (spec/10_state.md R37). -/
theorem symbolsFrom_pathBits (path : Vector Bool 255) {d : Nat} (hd : d ≤ 255) :
    symbolsFrom (pathBits path d) d = path.toList.take d := by
  induction d with
  | zero => rfl
  | succ d ih =>
    rw [pathBits, symbolsFrom_snoc _ _ hd, ih (by omega), List.take_succ_eq_append_getElem (by simpa using hd)]
    simp [show d < 255 from hd]

end Labels

/-! ## The walk writes paths -/

section Coding

variable {s t u v : State} {e : StkEntry} {n : Nat}

theorem stacked_pushed_pushed (e f : StkEntry) (h : u.sp.toNat + 1 < 256) :
    stacked (pushed f (pushed e u)) = f :: e :: stacked u := by
  rw [stacked_pushed _ (by rwa [pushed_sp _ (by omega)]), stacked_pushed _ (by omega)]

theorem pushStk_eq_ok (h : pushStk e u = .ok () v) : u.sp.toNat < 256 ∧ v = pushed e u := by
  rw [pushStk] at h
  split at h
  · next hlt => exact ⟨hlt, (Res.ok.inj h).2.symm⟩
  · cases h

/-- What a visit can do when it does not fault (spec/42_code_table.md R163). -/
theorem visit_eq_ok (h : visit e u = .ok () v) :
    (isLeaf u e.node = true ∧
      v = ctSet (nodeAt u e.node).sym { valid := true, len := e.depth, bits := pathBits u.path e.depth.toNat } u) ∨
    (isLeaf u e.node = false ∧ u.sp.toNat + 1 < 256 ∧
      v = pushed { node := (nodeAt u e.node).zero, depth := e.depth + 1, bit := false }
        (pushed { node := (nodeAt u e.node).one, depth := e.depth + 1, bit := true } u)) := by
  cases hleaf : isLeaf u e.node with
  | true => exact .inl ⟨rfl, (Res.ok.inj ((visit_leaf hleaf).symm.trans h)).2.symm⟩
  | false =>
    have hinner : ¬ (nodeAt u e.node).leaf = true := Bool.eq_false_iff.1 hleaf
    rw [visit, if_neg hinner] at h
    obtain ⟨_, w, hfirst, hsecond⟩ := (andThen_eq_ok _ _ _ _).1 h
    obtain ⟨hsp, rfl⟩ := pushStk_eq_ok hfirst
    obtain ⟨hsp', rfl⟩ := pushStk_eq_ok hsecond
    exact .inr ⟨rfl, pushed_sp _ hsp ▸ hsp', rfl⟩

/-- What every visit keeps, the walk keeps. -/
theorem walkLoop_keeps {P : State → Prop}
    (hvisit : ∀ {u v}, P u → u.sp ≠ 0 → visit (topStk u) (popStk u) = .ok () v → P v) {m : Nat} (hu : P u)
    (h : walkLoop m u = .ok () t) : P t := by
  induction m generalizing u with
  | zero =>
    rw [walkLoop] at h
    split at h
    · exact (Res.ok.inj h).2 ▸ hu
    · cases h
  | succ m ih =>
    rw [walkLoop] at h
    split at h
    · exact (Res.ok.inj h).2 ▸ hu
    · next hsp =>
      obtain ⟨_, v, hv, h⟩ := (andThen_eq_ok _ _ _ _).1 h
      exact ih (hvisit hu hsp hv) h

/-- Every code is a path from ROOT of `s` to a leaf of its byte value. -/
def CodesFollow (s u : State) : Prop :=
  ∀ b, hasCode u b = true → ∃ l, isLeaf s l = true ∧ (nodeAt s l).sym = b ∧ follow s s.root (codeString (ctGet u b)) = some l

/-- `u` is a state of the walk of CODES, begun in `s`: the labels of each stack entry are the path from ROOT to its node, no entry is deeper
than one above it, and the codes written are paths. -/
structure Coding (s u : State) : Prop where
  frame : CodesFrame s u
  paths : ∀ e ∈ stacked u, follow s s.root (labels u.path e) = some e.node
  falling : (stacked u).Pairwise fun e f => f.depth.toNat ≤ e.depth.toNat
  codes : CodesFollow s u

/-- The code a visit of a leaf writes is the path to that leaf. -/
theorem CodesFollow.write_leaf {path : Vector Bool 255} {l : NodeIdx} (h : CodesFollow s u) (hl : isLeaf s l = true) (d : BitVec 8)
    (hpath : follow s s.root (path.toList.take d.toNat) = some l) :
    CodesFollow s (ctSet (nodeAt s l).sym { valid := true, len := d, bits := pathBits path d.toNat } u) := by
  intro b hb
  rw [hasCode_ctSet] at hb
  rw [ctGet_ctSet]
  split at hb
  · next heq =>
    have hd := d.isLt
    rw [if_pos heq, codeString, symbolsFrom_pathBits _ (by omega)]
    exact ⟨l, hl, heq, hpath⟩
  · next hne =>
    rw [if_neg hne]
    exact h b hb

/-- One visit writes a path, or makes the paths of its two entries one label longer. -/
theorem Coding.visit (ht : treeShape s n) (h : Coding s u) (hsp : u.sp ≠ 0) (hv : visit (topStk u) (popStk u) = .ok () v) :
    Coding s v := by
  obtain ⟨hframe, hpaths, hfalling, hcodes⟩ := h
  have hpop := popStk_frame hframe
  have hnext : MeetsCodes s (.ok () v) := hv ▸ visit_meets _ hpop
  have hnode : nodeAt (popStk u) (topStk u).node = nodeAt s (topStk u).node := hpop.entry_eq _
  rw [stacked_popStk hsp] at hpaths hfalling
  obtain ⟨hbelow, hfalling⟩ := List.pairwise_cons.1 hfalling
  obtain ⟨htop, hpaths⟩ := List.forall_mem_cons.1 hpaths
  have hrest : ∀ f ∈ stacked (popStk u), follow s s.root (labels (popStk u).path f) = some f.node := fun f hf => by
    rw [labels_popStk (hbelow f hf)]
    exact hpaths f hf
  rcases visit_eq_ok hv with ⟨hleaf, rfl⟩ | ⟨hleaf, hfew, rfl⟩
  · rw [isLeaf, hnode] at hleaf
    rw [hnode] at hnext ⊢
    exact ⟨hnext, hrest, hfalling, CodesFollow.write_leaf hcodes hleaf _ (take_popStk_path u ▸ htop)⟩
  · rw [isLeaf, hnode] at hleaf
    have hdepth : (topStk u).depth.toNat + 1 < 2 ^ 8 := by
      have hlen := rootPath_descends ht htop
      have hge := le_of_inner ht hleaf
      obtain ⟨-, hn, -⟩ := ht
      rw [length_labels] at hlen
      omega
    have hsucc : ((topStk u).depth + 1).toNat = (topStk u).depth.toNat + 1 := BitVec.toNat_add_of_lt (y := 1) hdepth
    have hchild (w : Bool) : follow s s.root (labels (popStk u).path
        { node := childOf (nodeAt s (topStk u).node) w, depth := (topStk u).depth + 1, bit := w }) =
        some (childOf (nodeAt s (topStk u).node) w) := by
      rw [labels_child hdepth]
      exact follow_snoc.2 ⟨_, htop, hleaf, rfl⟩
    have hdeep : ∀ f ∈ stacked (popStk u), f.depth.toNat ≤ ((topStk u).depth + 1).toNat := fun f hf =>
      hsucc ▸ (hbelow f hf).trans (Nat.le_succ _)
    rw [hnode] at hnext ⊢
    refine ⟨hnext, ?_, ?_, hcodes⟩
    · rw [stacked_pushed_pushed _ _ hfew, List.forall_mem_cons, List.forall_mem_cons]
      exact ⟨hchild false, hchild true, hrest⟩
    · rw [stacked_pushed_pushed _ _ hfew, List.pairwise_cons, List.pairwise_cons, List.forall_mem_cons]
      exact ⟨⟨le_rfl, hdeep⟩, hdeep, hfalling⟩

theorem hasCode_ctClear (s : State) (b : Byte) : hasCode (ctClear s) b = false := by
  simp [hasCode, ctGet, ctClear]

/-- From a root that is internal the walk writes paths. -/
theorem walkRoot_codesFollow (ht : treeShape s n) (hroot : isLeaf s s.root = false) (h : walkRoot (ctClear s) = .ok () u) :
    CodesFollow s u := by
  have hinner : ¬ (nodeAt (ctClear s) (ctClear s).root).leaf = true := Bool.eq_false_iff.1 hroot
  rw [walkRoot, if_neg hinner] at h
  obtain ⟨_, v, hpush, hloop⟩ := (andThen_eq_ok _ _ _ _).1 h
  obtain ⟨hsp, rfl⟩ := pushStk_eq_ok hpush
  have start : Coding s (pushed { node := (ctClear s).root, depth := 0, bit := false } (walkStart s)) := by
    have hstack := stacked_pushed { node := (ctClear s).root, depth := 0, bit := false } hsp
    have hempty : stacked (walkStart s) = [] := rfl
    rw [hempty] at hstack
    refine ⟨⟨_, _, _, _, _, rfl⟩, ?_, hstack ▸ List.pairwise_singleton _ _, fun b hb => ?_⟩
    · rw [hstack, List.forall_mem_singleton]
      rfl
    · exact absurd ((hasCode_ctClear s b).symm.trans hb) (by decide)
  exact (walkLoop_keeps (fun hu hsp hv => hu.visit ht hsp hv) start hloop).codes

end Coding

/-! ## The whole of CODES -/

section Codes

variable {s t u : State} {n : Nat} {b c : Byte}

theorem root_cases (ht : treeShape s n) : (n = 1 ∧ isLeaf s s.root = true) ∨ (2 ≤ n ∧ isLeaf s s.root = false) := by
  obtain ⟨h1, -, -, hroot, -, ⟨hleaf, -⟩, hinner, -⟩ := ht
  rcases Nat.eq_or_lt_of_le h1 with rfl | h2
  · exact .inl ⟨rfl, (hleaf s.root.toNat (by omega)).1⟩
  · exact .inr ⟨h2, (hinner s.root.toNat (by omega) (by omega)).1⟩

theorem hasCode_toPhase (i : Instr) (u : State) (b : Byte) : hasCode (toPhase i u) b = hasCode u b := rfl

theorem ctGet_toPhase (i : Instr) (u : State) (b : Byte) : ctGet (toPhase i u) b = ctGet u b := rfl

/-- CODES of a root that is a leaf (spec/42_code_table.md R162). -/
theorem exec_codes_lone (h : isLeaf s s.root = true) :
    exec .codes s = .next (toPhase .pack (ctSet (nodeAt s s.root).sym { valid := true, len := 1, bits := 0 } (ctClear s))) := by
  have hroot : (nodeAt (ctClear s) (ctClear s).root).leaf = true := h
  rw [exec, execCodes, walkRoot, if_pos hroot]
  rfl

/-- CODES of a tree of two leaves or more: each leaf's byte value has a code, and every code is a path (spec/42_code_table.md R161). -/
theorem exec_codes_follow (ht : treeShape s n) (h2 : 2 ≤ n) : ∃ t, exec .codes s = .next t ∧
    t = { s with ct := t.ct, stk := t.stk, sp := t.sp, path := t.path, phase := phaseCode .pack } ∧
    (∀ k < n, hasCode t (entry s k).sym = true) ∧ CodesFollow s t := by
  have hroot : isLeaf s s.root = false := ((root_cases ht).resolve_left fun h => by omega).2
  obtain ⟨u, hu, ⟨ct, stk, sp, path, phase, hframe⟩, hcodes⟩ := walkRoot_tree ht
  refine ⟨toPhase .pack u, by rw [exec, execCodes, hu]; rfl, by rw [hframe]; rfl, hcodes, ?_⟩
  have hfollow : CodesFollow s u := walkRoot_codesFollow ht hroot hu
  exact hfollow

/-- A byte value with a code is that of a leaf on the path that the code is. -/
theorem CodesFollow.leaf (ht : treeShape s n) (h : CodesFollow s t) (hb : hasCode t b = true) : ∃ l : NodeIdx,
    l.toNat < n ∧ isLeaf s l = true ∧ (nodeAt s l).sym = b ∧ follow s s.root (codeString (ctGet t b)) = some l := by
  obtain ⟨l, hl, hsym, hpath⟩ := h b hb
  exact ⟨l, lt_of_leaf ht hpath hl, hl, hsym, hpath⟩

/-- The code of a leaf's byte value is a path to that leaf: no other leaf has the byte value. -/
theorem CodesFollow.path (ht : treeShape s n) (h : CodesFollow s t) {k : NodeIdx} (hk : k.toNat < n)
    (hb : hasCode t (nodeAt s k).sym = true) : follow s s.root (codeString (ctGet t (nodeAt s k).sym)) = some k := by
  obtain ⟨l, hl, -, hsym, hpath⟩ := h.leaf ht hb
  rw [hpath, BitVec.eq_of_toNat_eq (leaf_sym_inj ht hl hk hsym)]

/-- After CODES of a root that is a leaf, its byte value alone has a code, "0". -/
theorem codes_lone (h : isLeaf s s.root = true) (ht : exec .codes s = .next t) :
    (∀ b, hasCode t b = true ↔ (nodeAt s s.root).sym = b) ∧ codeString (ctGet t (nodeAt s s.root).sym) = [false] := by
  obtain rfl := Host.Outcome.next.inj (ht.symm.trans (exec_codes_lone h))
  refine ⟨fun b => ?_, ?_⟩
  · rw [hasCode_toPhase, hasCode_ctSet, hasCode_ctClear]
    simp
  · rw [ctGet_toPhase, ctGet_ctSet, if_pos rfl]
    rfl

/-- After CODES of a tree of two leaves or more, every code is a path and each leaf's byte value has one. -/
theorem codes_follow (ht : treeShape s n) (h2 : 2 ≤ n) (h : exec .codes s = .next t) :
    (∀ k < n, hasCode t (entry s k).sym = true) ∧ CodesFollow s t := by
  obtain ⟨t', ht', -, hleaves, hfollow⟩ := exec_codes_follow ht h2
  obtain rfl := Host.Outcome.next.inj (h.symm.trans ht')
  exact ⟨hleaves, hfollow⟩

/-- After CODES the byte values of the leaves have a code, and no others (spec/42_code_table.md R166). -/
theorem hasCode_iff_leaf (ht : treeShape s n) (h : exec .codes s = .next t) :
    hasCode t b = true ↔ ∃ k ∈ List.range n, (entry s k).sym = b := by
  rcases root_cases ht with ⟨rfl, hroot⟩ | ⟨h2, -⟩
  · have ⟨_, _, _, hindex, _⟩ := ht
    have hnode : nodeAt s s.root = entry s 0 := congrArg (entry s) hindex
    rw [(codes_lone hroot h).1 b, hnode]
    simp
  · obtain ⟨hleaves, hfollow⟩ := codes_follow ht h2 h
    refine ⟨fun hb => ?_, ?_⟩
    · obtain ⟨l, hl, -, hsym, -⟩ := hfollow.leaf ht hb
      exact ⟨l.toNat, List.mem_range.2 hl, hsym⟩
    · rintro ⟨k, hk, rfl⟩
      exact hleaves k (List.mem_range.1 hk)

/-- No code is the empty string (spec/42_code_table.md R165). -/
theorem codeString_ne_nil (ht : treeShape s n) (h : exec .codes s = .next t) (hb : hasCode t b = true) :
    codeString (ctGet t b) ≠ [] := by
  rcases root_cases ht with ⟨-, hroot⟩ | ⟨h2, hroot⟩
  · obtain ⟨honly, hcode⟩ := codes_lone hroot h
    obtain rfl := (honly b).1 hb
    rw [hcode]
    exact List.cons_ne_nil _ _
  · obtain ⟨l, hl, -, hpath⟩ := (codes_follow ht h2 h).2 b hb
    exact follow_ne_nil hroot hl hpath

/-- The leaves are as many as the non-zero FT entries, when they are theirs. -/
theorem length_presentBytes_of_cover (ht : treeShape s n) (hcover : leavesCover s n) : (presentBytes s).length = n := by
  have hnodup : (presentBytes s).Nodup := (presentBytes_ascending s).imp fun h he => absurd (congrArg BitVec.toNat he) h.ne
  have hsyms : ((List.range n).map fun k => (entry s k).sym).Nodup :=
    List.nodup_range.map_on fun a ha b hb => leaf_sym_inj ht (List.mem_range.1 ha) (List.mem_range.1 hb)
  have hperm : (presentBytes s).Perm ((List.range n).map fun k => (entry s k).sym) :=
    (List.perm_ext_iff_of_nodup hnodup hsyms).2 fun b => by rw [mem_presentBytes, hcover b, List.mem_map]
  simpa using hperm.length_eq

end Codes

/-- Settles O16, by the arm of the walk for a root that is a leaf. -/
theorem codesLoneLeaf : Obligations.CodesLoneLeaf := by
  intro s h
  obtain ⟨honly, hcode⟩ := codes_lone h (exec_codes_lone h)
  refine ⟨_, exec_codes_lone h, rfl, ?_, hcode, fun b hb => Bool.eq_false_iff.2 fun hb' => hb ((honly b).1 hb').symm⟩
  rw [ctGet_toPhase, ctGet_ctSet, if_pos rfl]

/-- Settles O17: the codes written are paths, and a leaf is reached along one path only. -/
theorem codesArePaths : Obligations.CodesArePaths := by
  intro s n ht h2
  obtain ⟨t, hexec, hframe, hleaves, hfollow⟩ := exec_codes_follow ht h2
  refine ⟨t, hexec, hframe, fun p l hp hl => ?_, fun k hk => ?_, fun b hb => ?_⟩
  · have hlt := lt_of_leaf ht hp hl
    have hcode : hasCode t (nodeAt s l).sym = true := hleaves l.toNat hlt
    exact ⟨hcode, rootPath_unique ht (hfollow.path ht hlt hcode) hp⟩
  · have ⟨_, hfew, _⟩ := ht
    have hk9 : (BitVec.ofNat 9 k).toNat = k := Nat.mod_eq_of_lt (by omega)
    have hcode : hasCode t (nodeAt s (BitVec.ofNat 9 k)).sym = true := hleaves _ (hk9.symm ▸ hk)
    exact ⟨_, hfollow.path ht (hk9.symm ▸ hk) hcode⟩
  · refine Bool.eq_false_iff.2 fun hcode => ?_
    obtain ⟨l, hl, -, hsym, -⟩ := hfollow.leaf ht hcode
    exact hb l.toNat hl hsym

/-- Settles O18: no path goes on from a leaf, and the code of a lone leaf is the only one. -/
theorem codesArePrefixFree : Obligations.CodesArePrefixFree := by
  intro s t n ht h b c hb hc hne hbegins
  apply hne
  rcases root_cases ht with ⟨-, hroot⟩ | ⟨h2, -⟩
  · obtain ⟨honly, -⟩ := codes_lone hroot h
    exact ((honly b).1 hb).symm.trans ((honly c).1 hc)
  · obtain ⟨-, hfollow⟩ := codes_follow ht h2 h
    obtain ⟨l, hl, rfl, hpath⟩ := hfollow b hb
    obtain ⟨k, -, rfl, hpath'⟩ := hfollow c hc
    rw [eq_of_rootPath_begins hpath hl hpath' hbegins]

/-- Settles O19: the byte values with a code are those of the leaves, which are those of the non-zero FT entries. -/
theorem validCodesArePresentBytes : Obligations.ValidCodesArePresentBytes := by
  intro s t n ht hcover h
  have hpresent (b : Byte) : hasCode t b = true ↔ ftGet s b ≠ 0 := (hasCode_iff_leaf ht h).trans (hcover b).symm
  refine ⟨hpresent, ?_, fun b hb => ⟨List.length_pos_iff.2 (codeString_ne_nil ht h hb), length_codeString_le _⟩⟩
  rw [← length_presentBytes_of_cover ht hcover, presentBytes]
  congr 2
  funext b
  rw [Bool.eq_iff_iff, hpresent, bne_iff_ne]

end Sys2Proof.Proofs

namespace Sys2Proof.Proofs

open Sys2Proof.Machine Sys2Proof.Safety

/-! # The bit packer as functions of the state: one bit, the codes of the source, the padding -/

/-! ## Bits -/

section Bits

variable {s : State} {v : Bool}

/-- The shift of spec/43_bit_packer.md R177 as arithmetic in 8 bits. -/
theorem shiftIn_eq_ofNat (acc : BitVec 8) (v : Bool) : shiftIn acc v = BitVec.ofNat 8 (2 * acc.toNat + v.toNat) := by
  apply BitVec.eq_of_toNat_eq
  rw [shiftIn, BitVec.toNat_concat, BitVec.toNat_setWidth, BitVec.toNat_ofNat]
  have := v.toNat_lt
  omega

/-- A zero bit shifts ACC left. -/
theorem shiftIn_false (acc : BitVec 8) : shiftIn acc false = acc <<< 1 := by
  apply BitVec.eq_of_toNat_eq
  rw [shiftIn_eq_ofNat, BitVec.toNat_ofNat, BitVec.toNat_shiftLeft, Nat.shiftLeft_eq, Nat.mul_comm]
  rfl

theorem nb_eq_seven_iff : s.nb = 7 ↔ s.nb.toNat = 7 := BitVec.toNat_inj.symm

theorem putBit_of_full (hnb : s.nb = 7) : putBit v s =
    { s with pbuf := writeByte s.pbuf s.plen.toNat (shiftIn s.acc v), plen := s.plen + 1, nb := 0, acc := 0 } :=
  if_pos hnb

theorem putBit_of_part (hnb : s.nb ≠ 7) : putBit v s = { s with acc := shiftIn s.acc v, nb := s.nb + 1 } :=
  if_neg hnb

theorem putBit_nb_of_part (hnb : s.nb ≠ 7) : (putBit v s).nb.toNat = s.nb.toNat + 1 := by
  have hne : s.nb.toNat ≠ 7 := mt nb_eq_seven_iff.2 hnb
  rw [putBit_nb]
  omega

/-- Bits are kept in order as long as the bytes they complete do not make PLEN wrap. -/
theorem packedBits_putBits (vs : List Bool) (h : s.plen.toNat + (s.nb.toNat + vs.length) / 8 < 2 ^ 64) :
    packedBits (putBits vs s) = packedBits s ++ vs := by
  induction vs generalizing s with
  | nil => exact (List.append_nil _).symm
  | cons v vs ih =>
    rw [List.length_cons] at h
    have first : Packs [v] s (putBit v s) ∧
        (putBit v s).plen.toNat + ((putBit v s).nb.toNat + vs.length) / 8 < 2 ^ 64 := by
      by_cases hnb : s.nb = 7
      · have h7 := nb_eq_seven_iff.1 hnb
        have hput := putBit_packs_full v hnb (by omega)
        have hbound : (putBit v s).plen.toNat ≤ s.plen.toNat + 1 := hput.bound
        have hnext := putBit_nb v s
        exact ⟨hput, by omega⟩
      · have hnext := putBit_nb_of_part (v := v) hnb
        have hplen : (putBit v s).plen = s.plen := by rw [putBit_of_part hnb]
        exact ⟨putBit_packs_part v hnb, by rw [hplen, hnext]; omega⟩
    obtain ⟨hput, hfits⟩ := first
    rw [putBits, ih hfits, hput.bits, List.append_assoc, List.singleton_append]

end Bits

/-- Settles O20, by the two branches of BP.PUTBIT. -/
theorem bpInitAndPutBit : Obligations.BpInitAndPutBit := by
  refine ⟨fun _ => rfl, fun s v => ⟨fun hnb => ?_, fun hnb => ?_⟩⟩
  · rw [putBit_of_part hnb, shiftIn_eq_ofNat]
  · rw [putBit_of_full hnb]
    refine ⟨rfl, fun a => ?_⟩
    simp only [readByte_writeByte, shiftIn_eq_ofNat, eq_comm]

/-- Settles O21, by induction on the bits (`putBits_packs`). -/
theorem putBitsKeepsOrder : Obligations.PutBitsKeepsOrder :=
  fun _ vs h => (putBits_packs vs h).bits

/-! ## The codes of the source -/

section Codes

variable {s t : State}

/-- The codes of bytes are as long as their LEN fields say (spec/43_bit_packer.md R179). -/
theorem length_codedBits (s : State) (bs : List Byte) :
    (codedBits s bs).length = (bs.map fun b => (ctGet s b).len.toNat).sum := by
  simp only [codedBits, List.length_flatMap, length_codeString]

theorem forall_mem_sourceBytes {p : Byte → Prop} (h : ∀ b ∈ sourceBytes s, p b) :
    ∀ j < s.srcLen.toNat, p (readByte s.src j) := by
  intro j hj
  apply h
  rw [sourceBytes, readBytes_eq_map]
  exact List.mem_map.2 ⟨j, List.mem_range.2 hj, by rw [Nat.zero_add]⟩

/-- What the loop of PACK changes in `k` bytes: the packer, the cursor and the samples of the reads. -/
theorem packedTo_frame (k : Nat) (s : State) : packedTo k s = { s with
    acc := (packedTo k s).acc, nb := (packedTo k s).nb, bitcnt := (packedTo k s).bitcnt, pbuf := (packedTo k s).pbuf,
    plen := (packedTo k s).plen, idx := BitVec.ofNat 64 k, srcOkNext := s.srcOkNext.drop k } := by
  obtain ⟨-, -, -, -, hnext, hidx⟩ := (pack_scans s).scanned_keeps (readBytes s.src 0 k) (packStart s)
  have hend : (packedTo k s).idx = BitVec.ofNat 64 k := by simpa using hidx
  have hdrop : (packedTo k s).srcOkNext = s.srcOkNext.drop k := by simpa using hnext
  obtain ⟨acc, nb, bitcnt, pbuf, plen, idx, next, h⟩ := scanned_packedByte_frame (readBytes s.src 0 k) (packStart s)
  rw [← hend, ← hdrop, packedTo, h]
  rfl

/-- PACK's counts are those of the codes it put (spec/43_bit_packer.md R179). -/
theorem packedTo_bitcnt (hcap : s.srcLen.toNat ≤ s.cfg.srcCap.toNat) :
    (packedTo s.srcLen.toNat s).bitcnt.toNat = (codedBits s (sourceBytes s)).length := by
  rw [← (packedTo_counts hcap).1, ← length_packedBits, (packedTo_packs le_rfl hcap).bits]
  rfl

/-- PACK goes on to FLUSH only when it has packed the whole source. -/
theorem exec_pack_goesOn (h : exec .pack s = .next t) (hphase : t.phase = phaseCode .flush) :
    t = toPhase .flush (packedTo s.srcLen.toNat s) := by
  obtain hready | ⟨k, hk, hready, hstop⟩ :=
    ready_or_firstBad (fun k => srcSample s k && hasCode s (readByte s.src k)) s.srcLen.toNat
  all_goals simp only [Bool.and_eq_true] at hready
  · exact Host.Outcome.next.inj (h.symm.trans (exec_pack_ready (forall₂_and.1 hready)))
  · cases hs : srcSample s k with
    | false =>
      rw [exec_pack_stops hk (forall₂_and.1 hready) hs] at h
      cases h
      exact absurd ((phaseCode_eq_iff rfl rfl).1 hphase) (by decide)
    | true =>
      have hno : hasCode s (readByte s.src k) = false := by simpa [hs] using hstop
      rw [exec_pack_noCode hk (forall₂_and.1 hready) hs hno] at h
      cases h

end Codes

/-- Settles O22, by the loop of PACK over the whole source. -/
theorem packAppendsCodes : Obligations.PackAppendsCodes := by
  intro s hready hcap hcodes
  refine ⟨_, exec_pack_ready ⟨hready, forall_mem_sourceBytes hcodes⟩, ?_, (packedTo_packs le_rfl hcap).bits, ?_⟩
  · have hframe := packedTo_frame s.srcLen.toNat s
    rw [BitVec.ofNat_toNat, BitVec.setWidth_eq] at hframe
    exact congrArg (toPhase .flush) hframe
  · exact (packedTo_bitcnt hcap).trans (length_codedBits s _)

/-! ## The padding -/

section Padding

variable {s : State}

/-- Zero bits that complete the byte begun in ACC shift its bits to the top of the byte and store it. -/
theorem putBits_zeros_full (n : Nat) (h : s.nb.toNat + n = 7) : putBits (List.replicate (n + 1) false) s =
    { s with pbuf := writeByte s.pbuf s.plen.toNat (s.acc <<< (n + 1)), plen := s.plen + 1, nb := 0, acc := 0 } := by
  induction n generalizing s with
  | zero => exact (putBit_of_full (nb_eq_seven_iff.2 h)).trans (by rw [shiftIn_false])
  | succ n ih =>
    have hnb : s.nb ≠ 7 := mt nb_eq_seven_iff.1 (by omega)
    have hnext := putBit_nb_of_part (v := false) hnb
    rw [List.replicate_succ, putBits, ih (by omega), putBit_of_part hnb, shiftIn_false, ← BitVec.shiftLeft_add, Nat.add_comm 1]

/-- FLUSH as one store (spec/43_bit_packer.md R180). -/
theorem exec_flush_stores (s : State) : exec .flush s = .next { s with
    pbuf := writeByte s.pbuf s.plen.toNat (s.acc <<< (8 - s.nb.toNat)), plen := s.plen + 1, nb := 0, acc := 0,
    phase := phaseCode .emit } := by
  have hnb := s.nb.isLt
  have hpad : 8 - s.nb.toNat = 7 - s.nb.toNat + 1 := by omega
  rw [exec_flush, hpad, putBits_zeros_full _ (by omega)]
  rfl

/-- `ceil8(B + 1)` in the form of spec/43_bit_packer.md R181. -/
theorem ceil8_succ (b : Nat) : ceil8 (b + 1) = b / 8 + 1 := by
  unfold ceil8
  split <;> omega

end Padding

/-- Settles O24, by the one byte that FLUSH stores. -/
theorem flushPads : Obligations.FlushPads := by
  intro s
  refine ⟨_, exec_flush_stores s, rfl, fun a => ?_, fun hplen => ?_⟩
  · simp only [readByte_writeByte, eq_comm]
  · have hnb := s.nb.isLt
    have hpadded := Host.Outcome.next.inj ((exec_flush_stores s).symm.trans (exec_flush s))
    rw [hpadded]
    exact packedBits_putBits (List.replicate (8 - s.nb.toNat) false) (by rw [List.length_replicate]; omega)

/-- Settles O25, by the counts PACK leaves and the one byte FLUSH adds. -/
theorem packBufferFits : Obligations.PackBufferFits := by
  intro s t u hcap hpack hphase hflush
  obtain rfl := exec_pack_goesOn hpack hphase
  obtain rfl := Host.Outcome.next.inj ((exec_flush_stores _).symm.trans hflush)
  obtain ⟨hcount, hbound⟩ := packedTo_counts hcap
  have hlt := s.cfg.srcCap.isLt
  have hnb := (packedTo s.srcLen.toNat s).nb.isLt
  have hplen : ((packedTo s.srcLen.toNat s).plen + 1).toNat = (packedTo s.srcLen.toNat s).bitcnt.toNat / 8 + 1 := by
    rw [BitVec.toNat_add_of_lt (y := 1) (show _ + 1 < 2 ^ 64 by omega)]
    change _ + 1 = _
    omega
  refine ⟨rfl, hplen, hplen.trans (ceil8_succ _).symm, hbound, hplen.le.trans ?_⟩
  rw [Config.pbufCap]
  omega

end Sys2Proof.Proofs

namespace Sys2Proof.Proofs

open Sys2Proof.Machine Sys2Proof.Safety

/-! # The bit reader and the decoder (spec/44_bit_reader_decoder.md) -/

/-- Settles O36, by the order of BR.GETBIT's checks (`getBit_eq`). -/
theorem getBitCases : Obligations.GetBitCases := by
  intro s
  refine ⟨fun hpast => ?_, fun hcur hbad => ?_, fun hcur hok hin => ?_⟩
  · rw [getBit_eq, if_pos hpast]
    rfl
  · rw [getBit_eq, if_neg (not_le.2 hcur), if_pos hbad]
    rfl
  · rw [getBit_eq, if_neg (not_le.2 hcur), if_neg (by rw [hok]; decide), if_neg (not_lt.2 hin)]
    rfl

/-! ## Runs of DECODE that end in DONE -/

section Runs

variable {s u : State} {ps : List (List Bool × NodeIdx)}

/-- The loop of DECODE is left when the cursor is no longer before BITCNT (spec/44_bit_reader_decoder.md R192, R196). -/
theorem decodeLoop_of_bitcnt_le (n : Nat) (h : u.bitcnt ≤ u.cur) : decodeLoop n u = .ok () u := by
  cases n with
  | zero => rfl
  | succ n => rw [decodeLoop, if_neg (BitVec.not_lt.2 h)]

/-- A DECODE whose loop ends writes the counts and enters DONE (spec/46_commands_fsm.md R240). -/
theorem exec_decode_of_loop (h : decodeLoop s.bitcnt.toNat { s with cur := 0 } = .ok () u) :
    exec .decode s = .next (enterDone (clen u.nchar.toNat u.bitcnt.toNat) u) := by
  rw [exec, execDecode, h]
  rfl

/-- DECODE of a lone leaf (spec/44_bit_reader_decoder.md R193). -/
theorem exec_decode_loneLeaf (hroot : isLeaf s s.root = true) (hready : snkReady s s.bitcnt.toNat) :
    exec .decode s = .next (enterDone (clen s.nchar.toNat s.bitcnt.toNat) (copied s.bitcnt.toNat s)) :=
  exec_decode_of_loop (decodeLoop_loneLeaf hroot le_rfl hready 0)

/-- Symbols that begin before BITCNT are at most BITCNT many: all but the last take at least one bit each. -/
theorem length_le_bitcnt_of_begins (hroot : isLeaf s s.root = false) (hsym : symbolsOk s ps)
    (hbegin : ∀ k < ps.length, (symbolBits (ps.take k)).length < s.bitcnt.toNat) : ps.length ≤ s.bitcnt.toNat := by
  cases hlen : ps.length with
  | zero => exact Nat.zero_le _
  | succ k =>
    have htake := length_le_symbolBits hroot fun q hq => hsym q (List.mem_of_mem_take (i := k) hq)
    rw [List.length_take_of_le (by omega)] at htake
    exact htake.trans_lt (hbegin k (by omega))

/-- DECODE of complete symbols, the last of which ends at BITCNT or after it (spec/44_bit_reader_decoder.md R192, R194, R196). -/
theorem exec_decode_symbols (hroot : isLeaf s s.root = false) (hsym : symbolsOk s ps)
    (hbegin : ∀ k < ps.length, (symbolBits (ps.take k)).length < s.bitcnt.toNat)
    (hend : s.bitcnt.toNat ≤ (symbolBits ps).length) (hpay : payloadBegins s (symbolBits ps))
    (hsrc : srcReady s (symbolBits ps).length) (hsnk : snkReady s ps.length) :
    ∃ j, exec .decode s = .next (enterDone (clen s.nchar.toNat s.bitcnt.toNat)
      (decoding (symbolBits ps).length (symbolBytes s ps) j s)) := by
  have hread := readable_of_payloadBegins hpay hsrc
  obtain ⟨hin, hlen, hlt, -⟩ := hpay
  obtain ⟨n, hn⟩ := Nat.exists_eq_add_of_le (length_le_bitcnt_of_begins hroot hsym hbegin)
  obtain ⟨j, hloop⟩ := decodeLoop_symbols (bs := []) (i := s.nodep) hin hroot n hsym (by simpa using hbegin) hread
    (by simpa using hlen) (by simpa using hsnk)
  have hpassed : (decoding (symbolBits ps).length (symbolBytes s ps) j s).bitcnt ≤
      (decoding (symbolBits ps).length (symbolBytes s ps) j s).cur := by
    rw [BitVec.le_def, decoding_cur hlt]
    exact hend
  rw [Nat.zero_add, List.nil_append, decodeLoop_of_bitcnt_le n hpassed, ← hn, decoding_start] at hloop
  exact ⟨j, exec_decode_of_loop hloop⟩

end Runs

/-- Settles O37, by the loop over BITCNT copies of the lone leaf's byte. -/
theorem decodeLoneLeaf : Obligations.DecodeLoneLeaf := by
  intro s hroot hready
  rw [exec_decode_loneLeaf hroot hready]
  simp [copied, appended, enterDone]

/-- Settles O38, by the loop over the symbols, which leaves the cursor at or past BITCNT. -/
theorem decodeSymbols : Obligations.DecodeSymbols := by
  intro s ps hroot hsym hbegin hend hpay hsrc hsnk
  obtain ⟨j, h⟩ := exec_decode_symbols hroot hsym hbegin hend hpay hsrc hsnk
  refine ⟨_, h, ?_⟩
  simp [decoding, appended, enterDone]

/-- Settles O40: a descent has a bit of fuel for each bit of the payload and one more (`descend_meets`), so `exec_decode_cases`
leaves a finished run or an abort. -/
theorem decodeEnds : Obligations.DecodeEnds := by
  intro s hpay
  obtain ⟨hwrap, -⟩ | ⟨u, -, hdone | ⟨e, c, -, habort⟩⟩ := exec_decode_cases s
  · exact absurd hpay (not_lt.2 hwrap)
  · exact ⟨_, hdone, .inl rfl⟩
  · exact ⟨_, habort, .inr rfl⟩

end Sys2Proof.Proofs

namespace Sys2Proof.Proofs

open Sys2Proof.Machine Sys2Proof.Safety

/-! # The container codec: what EMIT writes, and what DRECS loads (spec/45_container_codec.md) -/

/-- EMIT with nothing to encode writes the count 0 alone (spec/45_container_codec.md R208). -/
theorem emitImage_of_nchar_zero {s : State} (h : s.nchar = 0) : emitImage s = [0, 0, 0, 0, 0, 0, 0, 0] := by
  rw [emitImage, if_pos h, h]
  rfl

/-- Settles O26, by the run of EMIT whose appends all find `SNK_OK = 1`. -/
theorem emitWritesContainer : Obligations.EmitWritesContainer := by
  refine ⟨fun s h => emitImage_of_nchar_zero h, fun s hready => ?_⟩
  rw [exec_emit_ready hready, emitCursors, enterDone, BitVec.ofNat_toNat, BitVec.setWidth_eq]
  split <;> rfl

/-- Settles O27, by the lengths of the fields; with the pad byte the payload is `floor(BITCNT/8) + 1` bytes long, which is one more
than `ceil8(BITCNT)` when BITCNT is a multiple of 8 (spec/45_container_codec.md R211, R213). -/
theorem emitLength : Obligations.EmitLength := by
  intro s hnchar hplen
  rw [length_emitImage, ← hnchar, clen]
  by_cases h0 : s.nchar = 0
  · simp [h0]
  · have hne : s.nchar.toNat ≠ 0 := fun h => h0 (BitVec.eq_of_toNat_eq h)
    rw [if_neg h0, if_neg hne, elen, ceil8]
    cases s.cfg.emitPadByte with
    | false => simp only [Bool.false_eq_true, and_false, if_false]; omega
    | true =>
      by_cases hmod : s.bitcnt.toNat % 8 = 0
      · simp only [hplen, h0, hmod, ne_eq, not_false_eq_true, and_self, if_true]; omega
      · simp only [hplen, hmod, false_and, and_false, if_true, if_false]; omega

/-! ## The table DRECS loads -/

section Table

variable {s t u v : State} {x : Unit} {i n : Nat} {b c : Byte}

theorem recFreq_lt (s : State) (i : Nat) : recFreq s i < 2 ^ 64 := by
  simpa [recFreq] using leNat_lt (readBytes s.src (9 + 9 * i) 8)

/-- A frequency fits its FT entry, so an entry is 0 only if the frequency is. -/
theorem ofNat_recFreq_ne_zero (h : recFreq s i ≠ 0) : BitVec.ofNat 64 (recFreq s i) ≠ 0 := by
  intro h0
  have := congrArg BitVec.toNat h0
  rw [BitVec.toNat_ofNat, Nat.mod_eq_of_lt (recFreq_lt s i)] at this
  exact h this

/-- The byte values of good records rise (spec/45_container_codec.md R216). -/
theorem recByte_lt_of_good (hgood : ∀ j < n, recGood s j) {j k : Nat} (hjk : j < k) (hk : k < n) :
    (recByte s j).toNat < (recByte s k).toNat := by
  induction k, hjk using Nat.le_induction with
  | base => exact (hgood (j + 1) hk).1 j.succ_ne_zero
  | succ k hjk ih => exact (ih (by omega)).trans ((hgood (k + 1) hk).1 k.succ_ne_zero)

/-- A record that was read is loaded. -/
theorem readRecord_eq_ok (h : readRecord u = .ok x v) : v = recLoaded u := by
  rw [Proofs.readRecord_eq] at h
  split_ifs at h <;> cases h
  rfl

theorem ftGet_recLoaded (u : State) (c : Byte) : ftGet (recLoaded u) c =
    if recByte u u.reci.toNat = c then BitVec.ofNat 64 (recFreq u u.reci.toNat) else ftGet u c :=
  ftGet_ftSet _ _ _ (sampled (sampled u))

/-- FT holds the first `i` records of the container in `s`, and no others. -/
structure Tabled (i : Nat) (s u : State) : Prop where
  records : ∀ j < i, ftGet u (recByte s j) = BitVec.ofNat 64 (recFreq s j)
  others : ∀ b, (∀ j < i, recByte s j ≠ b) → ftGet u b = 0

theorem Tabled.start (s : State) : Tabled 0 s (drecsStart s) :=
  ⟨fun _ hj => absurd hj (Nat.not_lt_zero _), fun b _ => ftGet_histStart s b⟩

theorem Tabled.step (h : Tabled i s u) (hl : Loading i s u) (hgood : ∀ j < i + 1, recGood s j) : Tabled (i + 1) s (recLoaded u) := by
  have hget (c : Byte) : ftGet (recLoaded u) c = if recByte s i = c then BitVec.ofNat 64 (recFreq s i) else ftGet u c := by
    rw [ftGet_recLoaded, hl.reci, recByte, recFreq, hl.memory.1, recByte, recFreq]
  refine ⟨fun j hj => ?_, fun b hb => ?_⟩
  · rw [hget]
    rcases Nat.lt_succ_iff_lt_or_eq.1 hj with hlt | rfl
    · have hrise := recByte_lt_of_good hgood hlt i.lt_succ_self
      rw [if_neg fun he => hrise.ne' (congrArg BitVec.toNat he), h.records j hlt]
    · rw [if_pos rfl]
  · rw [hget, if_neg (hb i i.lt_succ_self), h.others b fun j hj => hb j (by omega)]

/-- The loop of DRECS over good records loads them. -/
theorem Tabled.loop (n : Nat) (h : Tabled i s u) (hl : Loading i s u) (hn : i + n < 512) (hgood : ∀ j < i + n, recGood s j)
    (ht : readRecords n u = .ok x t) : Tabled (i + n) s t := by
  induction n generalizing i u with
  | zero => exact (Res.ok.inj ht).2 ▸ h
  | succ n ih =>
    obtain ⟨_, v, hv, ht⟩ := (andThen_eq_ok _ _ _ _).1 ht
    obtain rfl := readRecord_eq_ok hv
    have hsum : i + 1 + n = i + (n + 1) := by omega
    rw [← hsum] at hn hgood ⊢
    exact ih (h.step hl fun j hj => hgood j (by omega)) (hl.step (by omega)) hn hgood ht

/-- An entry of the loaded table is not 0 exactly at the byte values of the records. -/
theorem Tabled.ne_zero_iff (h : Tabled n s u) (hgood : ∀ j < n, recGood s j) : ftGet u b ≠ 0 ↔ ∃ j < n, recByte s j = b := by
  refine ⟨fun hb => ?_, ?_⟩
  · by_contra hno
    exact hb (h.others b fun j hj he => hno ⟨j, hj, he⟩)
  · rintro ⟨j, hj, rfl⟩
    rw [h.records j hj]
    exact ofNat_recFreq_ne_zero (hgood j hj).2

/-- The loaded table has as many non-zero entries as there are records, since their byte values rise. -/
theorem Tabled.length_presentBytes (h : Tabled n s u) (hgood : ∀ j < n, recGood s j) : (presentBytes u).length = n := by
  have hbytes : ((List.range n).map (recByte s)).Pairwise fun b c => b.toNat < c.toNat :=
    List.pairwise_map.2 (List.pairwise_lt_range.imp_of_mem fun _ hk hjk => recByte_lt_of_good hgood hjk (List.mem_range.1 hk))
  have hnodup {l : List Byte} (hl : l.Pairwise fun b c => b.toNat < c.toNat) : l.Nodup :=
    hl.imp fun hlt he => hlt.ne (congrArg BitVec.toNat he)
  have hperm : (presentBytes u).Perm ((List.range n).map (recByte s)) :=
    (List.perm_ext_iff_of_nodup (hnodup (presentBytes_ascending u)) (hnodup hbytes)).2 fun b => by
      simp only [mem_presentBytes, h.ne_zero_iff hgood, List.mem_map, List.mem_range]
  simpa using hperm.length_eq

/-- DRECS of good records inside SRC, when its samples are 1 (spec/45_container_codec.md R216). -/
theorem exec_drecs_good (hready : srcReady s (2 * s.nchar.toNat)) (hlen : 8 + 9 * s.nchar.toNat ≤ s.srcLen.toNat)
    (hgood : ∀ i < s.nchar.toNat, recGood s i) :
    ∃ u, Loading s.nchar.toNat s u ∧ Tabled s.nchar.toNat s u ∧ exec .drecs s = .next (toPhase .leaves u) := by
  obtain ⟨u, hu, hloop⟩ := readRecords_good 0 s.nchar.isLt hready (fun _ => hlen) hgood
  have start : Loading 0 s (drecsStart s) := ⟨rfl, rfl, _, _, _, rfl⟩
  have table := (Tabled.start s).loop s.nchar.toNat start (by have := s.nchar.isLt; omega) (by simpa using hgood) hloop
  rw [Nat.zero_add] at table
  exact ⟨u, hu, table, by rw [exec, execDrecs, ← Nat.add_zero s.nchar.toNat, hloop]; rfl⟩

end Table

/-- Settles O33: every good record is loaded at its own byte value, and no other entry is written. -/
theorem drecsLoads : Obligations.DrecsLoads := by
  intro s hready hlen hgood
  obtain ⟨u, hload, htable, hexec⟩ := exec_drecs_good hready hlen hgood
  refine ⟨_, hexec, ?_, htable.records, htable.others, htable.length_presentBytes hgood⟩
  have hreci : u.reci = s.nchar := BitVec.eq_of_toNat_eq hload.reci
  obtain ⟨ft, reci, prev, rfl⟩ := hload.frame
  obtain rfl : reci = s.nchar := hreci
  rfl

end Sys2Proof.Proofs

namespace Sys2Proof.Proofs

open Sys2Proof.Machine Sys2Proof.Safety

/-! # A command that nothing hinders

With every sample 1 and no move of the host pending, a command goes from phase to phase; `Reaches` composes the phases into a run. -/

section Run

variable {i j : Instr} {m : Mode} {s t u : State} {k l n : Nat}

/-- No move of the host is pending, and every coming sample is 1. -/
structure Free (s : State) : Prop where
  host : s.host = []
  src : ∀ k, srcSample s k = true
  snk : ∀ k, snkSample s k = true

/-- From `s` to `t` a command went on, without appending anything or taking a sample of `SNK_OK`. -/
structure GoesOn (s t : State) : Prop where
  kept : hostPartKept s t
  mode : t.mode = s.mode
  snk : t.snk = s.snk
  snkNext : t.snkOkNext = s.snkOkNext
  srcNext : ∃ m, t.srcOkNext = s.srcOkNext.drop m

/-- An update of other fields, after `m` samples of `SRC_OK`. -/
theorem GoesOn.update (m : Nat) (h : hostPartKept s t ∧ t.mode = s.mode ∧ t.snk = s.snk ∧ t.snkOkNext = s.snkOkNext ∧
    t.srcOkNext = s.srcOkNext.drop m := by exact ⟨⟨rfl, rfl, rfl, rfl, rfl, rfl, rfl⟩, rfl, rfl, rfl, rfl⟩) : GoesOn s t := by
  obtain ⟨hkept, hmode, hsnk, hsnkNext, hsrcNext⟩ := h
  exact ⟨hkept, hmode, hsnk, hsnkNext, m, hsrcNext⟩

theorem GoesOn.trans (h : GoesOn s t) (h' : GoesOn t u) : GoesOn s u := by
  obtain ⟨⟨hsrc, hlen, hcfg, hhost, hrdata, hsrcOk, hsnkOk⟩, hmode, hsnk, hsnkNext, m, hsrcNext⟩ := h
  obtain ⟨⟨hsrc', hlen', hcfg', hhost', hrdata', hsrcOk', hsnkOk'⟩, hmode', hsnk', hsnkNext', m', hsrcNext'⟩ := h'
  refine ⟨⟨hsrc'.trans hsrc, hlen'.trans hlen, hcfg'.trans hcfg, hhost'.trans hhost, hrdata'.trans hrdata, hsrcOk'.trans hsrcOk,
    hsnkOk'.trans hsnkOk⟩, hmode'.trans hmode, hsnk'.trans hsnk, hsnkNext'.trans hsnkNext, m + m', ?_⟩
  rw [hsrcNext', hsrcNext, List.drop_drop]

theorem GoesOn.free (h : GoesOn s t) (hs : Free s) : Free t := by
  obtain ⟨⟨-, -, -, hhost, -, hsrcOk, hsnkOk⟩, -, -, hsnkNext, m, hsrcNext⟩ := h
  refine ⟨hhost.trans hs.host, fun k => ?_, fun k => ?_⟩
  · rw [srcSample_drop hsrcNext hsrcOk]
    exact hs.src _
  · rw [snkSample, hsnkNext, hsnkOk]
    exact hs.snk k

theorem GoesOn.sourceBytes (h : GoesOn s t) : sourceBytes t = sourceBytes s := by
  obtain ⟨hsrc, hlen, -⟩ := h.kept
  rw [Safety.sourceBytes, hsrc, hlen, Safety.sourceBytes]

theorem GoesOn.within_cap (h : GoesOn s t) (hs : s.srcLen.toNat ≤ s.cfg.srcCap.toNat) : t.srcLen.toNat ≤ t.cfg.srcCap.toNat := by
  obtain ⟨-, hlen, hcfg, -⟩ := h.kept
  rwa [hlen, hcfg]

/-- `k` phases, none of which hindered the command, lead from `s` to `t`. -/
structure Reaches (k : Nat) (s t : State) : Prop where
  goesOn : GoesOn s t
  runs : ∀ n, runCommand (n + k) s = runCommand n t

theorem Reaches.trans (h : Reaches k s t) (h' : Reaches l t u) : Reaches (l + k) s u :=
  ⟨h.goesOn.trans h'.goesOn, fun n => by rw [← Nat.add_assoc, h.runs, h'.runs]⟩

theorem runCommand_succ (h : step s = .next t) (n : Nat) :
    runCommand (n + 1) s = if busy t then runCommand n t else some t := by
  rw [runCommand, h]

/-- With no move of the host pending the engine executes the operation PHASE selects. -/
theorem step_phase (hs : Free s) (hi : formatOf i = .phase) (hp : s.phase = phaseCode i) : step s = exec i s := by
  rw [step_nil hs.host, phaseOp, hp, decodePhase_phaseCode hi]

theorem busy_of_workPhase (hj : j ∈ workPhases) (hp : t.phase = phaseCode j) : busy t = true := by
  obtain ⟨-, hstatus, -⟩ := workPhases_busy j hj
  rw [busy, hp, hstatus]
  rfl

/-- A phase that goes on to another one. -/
theorem reaches_phase (hs : Free s) (hi : formatOf i = .phase) (hp : s.phase = phaseCode i) (h : exec i s = .next t)
    (hj : j ∈ workPhases) (ht : t.phase = phaseCode j) (hgo : GoesOn s t) : Reaches 1 s t :=
  ⟨hgo, fun n => by rw [runCommand_succ ((step_phase hs hi hp).trans h), if_pos (busy_of_workPhase hj ht)]⟩

/-- A phase that ends the command. -/
theorem runCommand_done (hs : Free s) (hi : formatOf i = .phase) (hp : s.phase = phaseCode i) (h : exec i s = .next t)
    (ht : t.phase = phaseCode .done) (n : Nat) : runCommand (n + 1) s = some t := by
  have hidle : ¬ busy t = true := by rw [busy, ht]; decide
  rw [runCommand_succ ((step_phase hs hi hp).trans h), if_neg hidle]

/-- The state in which an accepted command starts. -/
abbrev accepted (m : Mode) (j : Instr) (s : State) : State :=
  toPhase j { accept m { s with host := [] } with srcOkNext := s.srcOkNext.tail }

/-- A command that is accepted starts its first phase, and is free when every sample is 1 and the host has no other move
(spec/46_commands_fsm.md R233, R234). -/
theorem command_starts {v : Nat} (hc : commandStart (decodeCmd (cmdField v)) = some (m, j)) (hb : busy s = false)
    (hhost : s.host = [.regWrite 0 v]) (hsrc : ∀ k, srcSample s k = true) (hsnk : ∀ k, snkSample s k = true)
    (hcap : s.srcLen.toNat ≤ s.cfg.srcCap.toNat) :
    Free (accepted m j s) ∧ ∀ n, runCommand (n + 1) s = runCommand n (accepted m j s) := by
  refine ⟨⟨rfl, fun k => (srcSample_sampled s k).trans (hsrc (k + 1)), hsnk⟩, fun n => ?_⟩
  have hbusy : busy { s with host := [] } = false := hb
  have hok : ¬ srcSample { s with host := [] } 0 = false := Bool.eq_false_iff.not_left.2 (hsrc 0)
  have hstep : step s = .next (accepted m j s) := by
    rw [step_command hhost, exec_command hc, hbusy, startCommand_eq, if_neg hok, if_neg (not_lt.2 hcap)]
    rfl
  obtain ⟨-, hj, -⟩ := commandStart_work hc
  rw [runCommand_succ hstep, if_pos (busy_of_workPhase hj rfl)]

end Run

/-! ## The phases of COMPRESS, and the tree that both commands build -/

section Compress

variable {s t u x z c e : State} {n : Nat} {b : Byte} {bs : List Byte}

/-- HIST counts the source. -/
theorem hist_reaches (hs : Free s) (hp : s.phase = phaseCode .hist) : ∃ t, Reaches 1 s t ∧ t.phase = phaseCode .leaves ∧
    ∀ b, ftGet t b = BitVec.ofNat 64 ((sourceBytes s).count b) := by
  have hexec := histCounts s fun k _ => hs.src k
  refine ⟨_, reaches_phase hs rfl hp hexec (j := .leaves) (by decide) rfl (.update s.srcLen.toNat), rfl, fun b => ?_⟩
  simp [ftGet]

/-- The bytes that HIST counted are those of the source: no count wraps. -/
theorem counted_ne_zero_iff (hlen : bs.length < 2 ^ 64) (h : ∀ b, ftGet t b = BitVec.ofNat 64 (bs.count b)) :
    ftGet t b ≠ 0 ↔ b ∈ bs := by
  have hcount : (BitVec.ofNat 64 (bs.count b)).toNat = bs.count b := Nat.mod_eq_of_lt (List.count_le_length.trans_lt hlen)
  rw [h, ← List.count_pos_iff, Nat.pos_iff_ne_zero, ne_eq, ← BitVec.toNat_inj, hcount]
  rfl

/-- LEAVES and MERGE, begun in `s`, made in `t` the tree of the counts in FT. -/
structure Treed (s t : State) : Prop where
  grown : ∃ r, exec .leaves s = .next r ∧ exec .merge r = .next t
  shape : treeShape t (presentBytes s).length
  cover : leavesCover t (presentBytes s).length
  ft : t.ft = s.ft
  nchar : t.nchar = if s.mode = .compress then BitVec.ofNat 9 (presentBytes s).length else s.nchar

theorem leaves_reaches (hs : Free s) (hp : s.phase = phaseCode .leaves) : ∃ t, exec .leaves s = .next t ∧ Reaches 1 s t ∧
    t.phase = phaseCode .merge ∧ leavesReady t (presentBytes s).length ∧ leavesCover t (presentBytes s).length ∧ t.ft = s.ft ∧
    t.nchar = if s.mode = .compress then BitVec.ofNat 9 (presentBytes s).length else s.nchar := by
  obtain ⟨u, hrows, hexec⟩ := exec_leaves s
  obtain ⟨hready, hcover⟩ := hrows.ready
  obtain ⟨⟨node, active, rfl⟩, -⟩ := hrows
  exact ⟨_, hexec, reaches_phase hs rfl hp hexec (j := .merge) (by decide) rfl (.update 0), rfl, hready, hcover, rfl, rfl⟩

/-- The merges leave FT and the leaves, so the leaves still are those of the non-zero entries. -/
theorem MergeFrame.cover (h : MergeFrame n s u) (hcover : leavesCover s n) : leavesCover u n := by
  obtain ⟨⟨node, active, nnode, nact, hframe⟩, hleaves⟩ := h
  have hft : ftGet u = ftGet s := by rw [hframe]; rfl
  intro b
  rw [hft, hcover b]
  exact exists_congr fun k => and_congr_right fun hk => by rw [hleaves k (List.mem_range.1 hk)]

/-- Where MERGE goes when there is a tree (spec/46_commands_fsm.md R236). -/
def afterTree : Mode → Instr
  | .compress => .codes
  | .decompress => .dbits

/-- A tree is built when some byte value was counted, and the command goes on as its mode says. -/
theorem tree_reaches (hs : Free s) (hp : s.phase = phaseCode .leaves) (hsome : presentBytes s ≠ []) :
    ∃ t, Reaches 2 s t ∧ Treed s t ∧ t.phase = phaseCode (afterTree s.mode) := by
  obtain ⟨r, hleaves, hreach, hphase, hready, hcover, hft, hnchar⟩ := leaves_reaches hs hp
  have hpos := List.length_pos_iff.2 hsome
  obtain ⟨u, hf, hone, hkept, hmerge⟩ := exec_merge_leaves (P := MergeFrame (presentBytes s).length r)
    (fun _ _ _ _ => MergeFrame.merged) hready hpos ⟨⟨_, _, _, _, rfl⟩, fun _ _ => rfl⟩
  have hshape := hf.tree hone
  have hcover' : leavesCover (rooted (presentBytes s).length u) (presentBytes s).length := hkept.cover hcover
  obtain ⟨⟨node, active, nnode, nact, hframe⟩, -⟩ := hkept
  have hnext : afterMerge (rooted (presentBytes s).length u) = afterTree s.mode := by
    rw [← hreach.goesOn.mode, hframe, afterMerge]
    cases r.mode <;> rfl
  have hgo : GoesOn r (toPhase (afterMerge (rooted (presentBytes s).length u)) (rooted (presentBytes s).length u)) := by
    rw [hframe]
    exact .update 0
  refine ⟨_, hreach.trans (reaches_phase (hreach.goesOn.free hs) rfl hphase hmerge (afterMerge_work _).1 rfl hgo),
    ⟨⟨r, hleaves, hmerge⟩, hshape, hcover', ?_, ?_⟩, congrArg phaseCode hnext⟩
  · exact Eq.trans (by rw [hframe]; rfl) hft
  · exact Eq.trans (by rw [hframe]; rfl) hnchar

/-- COMPRESS of an empty source goes to EMIT, with nothing to encode (spec/41_tree_builder.md R146). -/
theorem noTree_reaches (hs : Free s) (hp : s.phase = phaseCode .leaves) (hm : s.mode = .compress) (hnone : presentBytes s = []) :
    ∃ t, Reaches 2 s t ∧ t.phase = phaseCode .emit ∧ t.nchar = 0 := by
  obtain ⟨r, -, hreach, hphase, ⟨-, -, hnact, -⟩, -, -, hnchar⟩ := leaves_reaches hs hp
  rw [hnone] at hnact hnchar
  have hmerge := exec_merge_none hnact
  have hnext : afterMerge { r with rootValid := false } = .emit := by
    simp [afterMerge, hreach.goesOn.mode.trans hm]
  rw [hnext] at hmerge
  refine ⟨_, hreach.trans (reaches_phase (hreach.goesOn.free hs) rfl hphase hmerge (j := .emit) (by decide) rfl (.update 0)),
    rfl, ?_⟩
  exact hnchar.trans (if_pos hm)

/-- In `e` the packer holds whole bytes that begin with the codes of `bs` in the code table of `c`, and BITCNT is the length of the
codes (spec/43_bit_packer.md R179, R181). -/
structure Packed (bs : List Byte) (c e : State) : Prop where
  coded : ∀ b ∈ bs, hasCode c b = true
  bitcnt : e.bitcnt.toNat = (codedBits c bs).length
  plen : e.plen.toNat = e.bitcnt.toNat / 8 + 1
  begins : codedBits c bs <+: packedBits e

/-- A bit of the codes is a bit of PBUF, which lies below PLEN. -/
theorem Packed.bit (h : Packed bs c e) {p : Nat} (hp : p < (codedBits c bs).length) :
    (codedBits c bs)[p] = (readByte e.pbuf (p / 8)).getLsbD (7 - p % 8) := by
  have hplen : p / 8 < e.plen.toNat := by rw [h.plen, h.bitcnt]; omega
  rw [h.begins.getElem hp]
  simp only [packedBits, List.getElem_map, List.getElem_range, packedBit, if_pos hplen]

/-- CODES gives every source byte a code, when all of them were counted (spec/42_code_table.md R166). -/
theorem codes_reaches (hs : Free s) (hp : s.phase = phaseCode .codes) (ht : treeShape s n) (hcover : leavesCover s n)
    (hcounted : ∀ b ∈ sourceBytes s, ftGet s b ≠ 0) : ∃ c, exec .codes s = .next c ∧ Reaches 1 s c ∧
      c.phase = phaseCode .pack ∧ c.ft = s.ft ∧ c.nchar = s.nchar ∧ ∀ b ∈ sourceBytes s, hasCode c b = true := by
  obtain ⟨u, hexec, ⟨ct, stk, sp, path, phase, rfl⟩, -⟩ := exec_codes_tree ht
  exact ⟨_, hexec, reaches_phase hs rfl hp hexec (j := .pack) (by decide) rfl (.update 0), rfl, rfl, rfl,
    fun b hb => (hasCode_iff_leaf ht hexec).2 ((hcover b).1 (hcounted b hb))⟩

/-- The codes of a source within its capacity do not make PLEN wrap (spec/43_bit_packer.md R182). -/
theorem plen_fits (hcap : s.srcLen.toNat ≤ s.cfg.srcCap.toNat) (hbits : packedBits t = codedBits s (sourceBytes s)) :
    t.plen.toNat + 1 < 2 ^ 64 := by
  have hlt := s.cfg.srcCap.isLt
  have hlen := congrArg List.length hbits
  have hle := length_codedBits_le s (sourceBytes s)
  have hsource : (sourceBytes s).length = s.srcLen.toNat := length_readBytes _ _ _
  rw [length_packedBits] at hlen
  omega

/-- PACK and FLUSH leave the codes of the source in the packer. -/
theorem pack_reaches (hs : Free s) (hp : s.phase = phaseCode .pack) (hcoded : ∀ b ∈ sourceBytes s, hasCode s b = true)
    (hcap : s.srcLen.toNat ≤ s.cfg.srcCap.toNat) : ∃ e, Reaches 2 s e ∧ e.phase = phaseCode .emit ∧ e.ft = s.ft ∧
      e.nchar = s.nchar ∧ Packed (sourceBytes s) s e := by
  obtain ⟨p, hpack, hframe, hbits, hbitcnt⟩ := packAppendsCodes s (fun k _ => hs.src k) hcap hcoded
  obtain ⟨e, hflush, hframe', -, hpadded⟩ := flushPads p
  have hphase : p.phase = phaseCode .flush := by rw [hframe]
  have hphase' : e.phase = phaseCode .emit := by rw [hframe']
  have hgo : GoesOn s p := by
    rw [hframe]
    exact .update s.srcLen.toNat
  have hgo' : GoesOn p e := by
    rw [hframe']
    exact .update 0
  have hreach := reaches_phase hs rfl hp hpack (j := .flush) (by decide) hphase hgo
  have hreach' := reaches_phase (hgo.free hs) rfl hphase hflush (j := .emit) (by decide) hphase' hgo'
  obtain ⟨-, hplen, -⟩ := packBufferFits s p e hcap hpack hphase hflush
  refine ⟨e, hreach.trans hreach', hphase', ?_, ?_, hcoded, ?_, hplen, ?_⟩
  · rw [hframe', hframe]
  · rw [hframe', hframe]
  · rw [hframe', length_codedBits]
    exact hbitcnt
  · rw [hpadded (plen_fits hcap hbits), hbits]
    exact List.prefix_append _ _

/-- `e` is a state in which COMPRESS has encoded `bs`: FT was counted in `x`, the tree of `z` is built from it, and the packer holds
the codes that `c` takes from that tree. -/
structure Encoded (bs : List Byte) (x z c e : State) : Prop where
  treed : Treed x z
  codes : exec .codes z = .next c
  packed : Packed bs c e
  ft : e.ft = x.ft
  nchar : e.nchar.toNat = (presentBytes e).length
  nonempty : presentBytes e ≠ []

/-- `e` is a state before EMIT in which `bs` is encoded, or there is nothing to encode. -/
def Encodes (bs : List Byte) (e : State) : Prop := (e.nchar = 0 ∧ bs = []) ∨ ∃ x z c, Encoded bs x z c e

/-- COMPRESS goes as far as EMIT with its source encoded; with no byte counted there is no tree, and fewer phases. -/
theorem compress_reaches_emit (hs : Free s) (hp : s.phase = phaseCode .hist) (hm : s.mode = .compress)
    (hcap : s.srcLen.toNat ≤ s.cfg.srcCap.toNat) :
    ∃ k e, k ≤ 6 ∧ Reaches k s e ∧ e.phase = phaseCode .emit ∧ Encodes (sourceBytes s) e := by
  obtain ⟨x, hreach, hphase, hcounts⟩ := hist_reaches hs hp
  have hfree := hreach.goesOn.free hs
  have hmode : x.mode = .compress := hreach.goesOn.mode.trans hm
  have hlen : (sourceBytes s).length < 2 ^ 64 := (length_readBytes _ _ _).trans_lt s.srcLen.isLt
  by_cases hnone : presentBytes x = []
  · obtain ⟨e, hreach', hphase', hnchar⟩ := noTree_reaches hfree hphase hmode hnone
    refine ⟨3, e, by decide, hreach.trans hreach', hphase', .inl ⟨hnchar, List.eq_nil_iff_forall_not_mem.2 fun b hb => ?_⟩⟩
    exact List.not_mem_nil (hnone ▸ (mem_presentBytes x b).2 ((counted_ne_zero_iff hlen hcounts).2 hb))
  · obtain ⟨z, hreachz, htreed, hphasez⟩ := tree_reaches hfree hphase hnone
    rw [hmode] at hphasez
    have hgo := hreach.goesOn.trans hreachz.goesOn
    have hsource := hgo.sourceBytes
    have hcounted : ∀ b ∈ sourceBytes z, ftGet z b ≠ 0 := fun b hb => by
      rw [ftGet, htreed.ft]
      exact (counted_ne_zero_iff hlen hcounts).2 (hsource ▸ hb)
    obtain ⟨c, hcodes, hreachc, hphasec, hft, hnchar, hcoded⟩ :=
      codes_reaches (hgo.free hs) hphasez htreed.shape htreed.cover hcounted
    have hsourcec := hreachc.goesOn.sourceBytes
    obtain ⟨e, hreache, hphasee, hft', hnchar', hpacked⟩ := pack_reaches (hreachc.goesOn.free (hgo.free hs)) hphasec
      (hsourcec ▸ hcoded) (hreachc.goesOn.within_cap (hgo.within_cap hcap))
    have hfte : e.ft = x.ft := hft'.trans (hft.trans htreed.ft)
    have hpresent : presentBytes e = presentBytes x := by simp only [presentBytes, ftGet, hfte]
    rw [hsourcec, hsource] at hpacked
    refine ⟨6, e, le_rfl, ((hreach.trans hreachz).trans hreachc).trans hreache, hphasee,
      .inr ⟨x, z, c, htreed, hcodes, hpacked, hfte, ?_, hpresent ▸ hnone⟩⟩
    have := length_presentBytes_le x
    rw [hnchar', hnchar, htreed.nchar, if_pos hmode, hpresent, BitVec.toNat_ofNat]
    exact Nat.mod_eq_of_lt (by omega)

/-- COMPRESS ends in DONE with the container of its source appended (spec/45_container_codec.md R207). -/
theorem compress_done (hs : Free s) (hp : s.phase = phaseCode .hist) (hm : s.mode = .compress)
    (hcap : s.srcLen.toNat ≤ s.cfg.srcCap.toNat) : ∃ t e, runCommand 7 s = some t ∧ t.phase = phaseCode .done ∧
      t.snk = s.snk ++ emitImage e ∧ Encodes (sourceBytes s) e := by
  obtain ⟨k, e, hk, hreach, hphase, he⟩ := compress_reaches_emit hs hp hm hcap
  have hfree := hreach.goesOn.free hs
  obtain ⟨-, hemit⟩ := emitWritesContainer
  have hrun := (hreach.runs (6 - k + 1)).trans
    (runCommand_done hfree rfl hphase (hemit e fun k _ => hfree.snk k) rfl (6 - k))
  have hfuel : 6 - k + 1 + k = 7 := by omega
  rw [hfuel] at hrun
  exact ⟨_, e, hrun, rfl, congrArg (· ++ emitImage e) hreach.goesOn.snk, he⟩

end Compress

end Sys2Proof.Proofs

namespace Sys2Proof.Proofs

open Sys2Proof.Machine Sys2Proof.Safety

/-! # The container read back, field by field -/

section Holds

variable {m : Memory} {a : Nat} {xs ys : List Byte}

/-- The bytes `xs` stand in a memory from address `a` on. -/
def Holds (m : Memory) (a : Nat) (xs : List Byte) : Prop := readBytes m a xs.length = xs

theorem holds_cons {x : Byte} : Holds m a (x :: xs) ↔ readByte m a = x ∧ Holds m (a + 1) xs := by
  rw [Holds, List.length_cons, readBytes, List.cons.injEq, Holds]

theorem holds_append : Holds m a (xs ++ ys) ↔ Holds m a xs ∧ Holds m (a + xs.length) ys := by
  induction xs generalizing a with
  | nil => simp [Holds, readBytes]
  | cons x xs ih =>
    rw [List.cons_append, holds_cons, ih, holds_cons, List.length_cons, and_assoc, Nat.add_assoc, Nat.add_comm 1]

theorem Holds.readByte (h : Holds m a xs) {k : Nat} (hk : k < xs.length) : Machine.readByte m (a + k) = xs[k] := by
  have hbytes := readBytes_eq_map m a xs.length
  rw [h] at hbytes
  simp [List.getElem_of_eq hbytes hk]

/-- The value of a field that holds the low bytes of `v`. -/
theorem Holds.leNat {n v : Nat} (h : Holds m a (leBytes n v)) (hv : v < 256 ^ n) : Machine.leNat (readBytes m a n) = v := by
  rw [Holds, length_leBytes] at h
  rw [h, leNat_leBytes, Nat.mod_eq_of_lt hv]

/-- Pieces of one length stand at equal distances. -/
theorem Holds.piece {f : Byte → List Byte} {l : Nat} (hf : ∀ b, (f b).length = l) (h : Holds m a (xs.flatMap f)) {i : Nat}
    (hi : i < xs.length) : Holds m (a + l * i) (f xs[i]) := by
  induction xs generalizing a i with
  | nil => exact absurd hi (Nat.not_lt_zero i)
  | cons x xs ih =>
    rw [List.flatMap_cons, holds_append, hf] at h
    cases i with
    | zero => exact h.1
    | succ i =>
      have hrest := ih h.2 (Nat.lt_of_succ_lt_succ hi)
      rwa [Nat.add_assoc, Nat.add_comm l, ← Nat.mul_succ] at hrest

end Holds

section Carries

variable {s u e : State}

/-- The bytes from SRC[0] on are the container that EMIT writes in `e`. -/
abbrev Carries (u e : State) : Prop := Holds u.src 0 (emitImage e) ∧ u.srcLen.toNat = (emitImage e).length

theorem carries_of_sourceBytes (h : sourceBytes u = emitImage e) : Carries u e := by
  have hlen := congrArg List.length h
  rw [sourceBytes, length_readBytes] at hlen
  exact ⟨by rw [Holds, ← hlen]; exact h, hlen⟩

theorem GoesOn.carries (h : GoesOn u s) (hc : Carries u e) : Carries s e := by
  obtain ⟨hsrc, hlen, -⟩ := h.kept
  rwa [Carries, hsrc, hlen]

/-- The four fields of a container that is not empty, each at its offset (spec/45_container_codec.md R207, spec/20_memory.md R72). -/
theorem Carries.fields (h : Carries u e) (hnchar : e.nchar.toNat = (presentBytes e).length) (hne : presentBytes e ≠ []) :
    Holds u.src 0 (leBytes 8 e.nchar.toNat) ∧ Holds u.src 8 (recordsImage e) ∧
    Holds u.src (8 + 9 * e.nchar.toNat) (leBytes 8 e.bitcnt.toNat) ∧
    Holds u.src (16 + 9 * e.nchar.toNat) (readBytes e.pbuf 0 (elen e)) ∧
    u.srcLen.toNat = 16 + 9 * e.nchar.toNat + elen e := by
  obtain ⟨hbytes, hlen⟩ := h
  have hne0 : e.nchar ≠ 0 := fun h0 => hne (List.eq_nil_of_length_eq_zero (by rw [← hnchar, h0]; rfl))
  have hrecords : (recordsImage e).length = 9 * e.nchar.toNat := by
    rw [hnchar, recordsImage, List.length_flatMap]
    simp [Nat.mul_comm]
  rw [length_emitImage, if_neg hne0, ← hnchar] at hlen
  rw [emitImage, if_neg hne0, holds_append, holds_append, holds_append, List.length_append, length_leBytes, length_leBytes,
    hrecords, Nat.zero_add] at hbytes
  obtain ⟨hcount, ⟨hrec, hbits⟩, hpay⟩ := hbytes
  refine ⟨hcount, hrec, hbits, ?_, by omega⟩
  rwa [show 8 + (9 * e.nchar.toNat + 8) = 16 + 9 * e.nchar.toNat by omega] at hpay

/-- Record `i` of the container is that of the `i`-th byte value that was counted (spec/45_container_codec.md R209). -/
theorem records_read (h : Holds u.src 8 (recordsImage e)) {i : Nat} (hi : i < (presentBytes e).length) :
    recByte u i = (presentBytes e)[i] ∧ recFreq u i = (ftGet e (presentBytes e)[i]).toNat := by
  obtain ⟨hbyte, hfreq⟩ := holds_cons.1 (h.piece (fun b => by rw [List.length_cons, length_leBytes]) hi)
  refine ⟨hbyte, ?_⟩
  rw [Nat.add_right_comm] at hfreq
  exact hfreq.leNat (by have := (ftGet e (presentBytes e)[i]).isLt; omega)

/-- The records of a container are good: the byte values rise, and what was counted is not 0. -/
theorem records_good (h : Holds u.src 8 (recordsImage e)) : ∀ i < (presentBytes e).length, recGood u i := by
  intro i hi
  obtain ⟨hbyte, hfreq⟩ := records_read h hi
  refine ⟨fun h0 => ?_, fun h0 => ?_⟩
  · obtain ⟨hbyte', -⟩ := records_read h (i := i - 1) (by omega)
    rw [hbyte, hbyte']
    exact List.pairwise_iff_getElem.1 (presentBytes_ascending e) (i - 1) i (by omega) hi (by omega)
  · rw [hfreq] at h0
    exact (mem_presentBytes e _).1 (List.getElem_mem hi) (BitVec.eq_of_toNat_eq h0)

theorem ft_ext (h : ∀ b, ftGet s b = ftGet u b) : s.ft = u.ft := by
  refine Vector.ext fun i hi => ?_
  have := h (BitVec.ofNat 8 i)
  simpa only [ftGet, BitVec.toNat_ofNat, Nat.mod_eq_of_lt hi] using this

/-- The table that DRECS loads from a container is the one EMIT wrote. -/
theorem Tabled.ft_eq {t : State} (h : Tabled (presentBytes e).length u t) (hrec : Holds u.src 8 (recordsImage e)) :
    t.ft = e.ft := by
  refine ft_ext fun b => ?_
  by_cases hb : b ∈ presentBytes e
  · obtain ⟨i, hi, rfl⟩ := List.getElem_of_mem hb
    obtain ⟨hbyte, hfreq⟩ := records_read hrec hi
    have hget := h.records i hi
    rwa [hbyte, hfreq, BitVec.ofNat_toNat, BitVec.setWidth_eq] at hget
  · rw [h.others b fun i hi he => hb (he ▸ (records_read hrec hi).1 ▸ List.getElem_mem hi)]
    rw [mem_presentBytes, not_not] at hb
    exact hb.symm

end Carries

/-! ## Decoding with the tree of the same counts -/

section Decode

variable {z z' c d e x y : State} {n : Nat} {i : NodeIdx} {p : List Bool} {bs : List Byte}

/-- The arena of `d` holds the tree of `z`. -/
structure SameTree (n : Nat) (z d : State) : Prop where
  root : d.root = z.root
  nodes : ∀ k < 2 * n - 1, entry d k = entry z k

/-- The tree is a function of the counts (spec/41_tree_builder.md R149). -/
theorem Treed.same (h : Treed x z) (h' : Treed y d) (hft : x.ft = y.ft) : SameTree (presentBytes x).length z d := by
  obtain ⟨r, hleaves, hmerge⟩ := h.grown
  obtain ⟨r', hleaves', hmerge'⟩ := h'.grown
  obtain ⟨-, -, hroot, hnodes⟩ := treeIsFunctionOfCounts x y r r' z d hft hleaves hmerge hleaves' hmerge'
  obtain ⟨-, -, hnnode, -, hvalid, -⟩ := h.shape
  exact ⟨(hroot hvalid).symm, fun k hk => (hnodes k (hnnode ▸ hk)).symm⟩

theorem SameTree.follow (h : SameTree n z d) (ht : treeShape z n) (hi : i.toNat < 2 * n - 1) (p : List Bool) :
    Safety.follow d i p = Safety.follow z i p := by
  induction p generalizing i with
  | nil => rfl
  | cons v p ih =>
    have hnode : nodeAt d i = nodeAt z i := h.nodes i.toNat hi
    rw [Safety.follow, Safety.follow, hnode]
    split
    · rfl
    · next hleaf =>
      have hchild := child_lt ht (isParent_childOf (Bool.eq_false_iff.2 hleaf) v) hi
      exact ih (hchild.trans hi)

theorem root_lt (ht : treeShape z n) : z.root.toNat < 2 * n - 1 := by
  obtain ⟨h1, -, -, hroot, -⟩ := ht
  omega

/-- The paths of the leaves are the same in both arenas. -/
theorem SameTree.leaf (h : SameTree n z d) (ht : treeShape z n) (hp : Safety.follow z z.root p = some i) (hi : isLeaf z i = true) :
    Safety.follow d d.root p = some i ∧ isLeaf d i = true ∧ (nodeAt d i).sym = (nodeAt z i).sym := by
  have hnode : nodeAt d i = nodeAt z i := h.nodes i.toNat (by have := lt_of_leaf ht hp hi; omega)
  refine ⟨?_, ?_, congrArg Node.sym hnode⟩
  · rw [h.root, h.follow ht (root_lt ht), hp]
  · rw [isLeaf, hnode]
    exact hi

/-- The codes of bytes are the paths of their leaves. -/
theorem codes_symbols (h : SameTree n z d) (ht : treeShape z n) (hcodes : CodesFollow z c) (hbs : ∀ b ∈ bs, hasCode c b = true) :
    ∃ ps, symbolsOk d ps ∧ symbolBits ps = codedBits c bs ∧ symbolBytes d ps = bs := by
  induction bs with
  | nil => exact ⟨[], fun _ hq => absurd hq List.not_mem_nil, rfl, rfl⟩
  | cons b bs ih =>
    obtain ⟨hb, hbs⟩ := List.forall_mem_cons.1 hbs
    obtain ⟨ps, hok, hbits, hbytes⟩ := ih hbs
    obtain ⟨l, hl, hsym, hpath⟩ := hcodes b hb
    obtain ⟨hpath', hl', hsym'⟩ := h.leaf ht hpath hl
    refine ⟨(codeString (ctGet c b), l) :: ps, List.forall_mem_cons.2 ⟨⟨hpath', hl'⟩, hok⟩, ?_, ?_⟩
    · exact congrArg (codeString (ctGet c b) ++ ·) hbits
    · exact congrArg₂ List.cons (hsym'.trans hsym) hbytes

/-- Every symbol begins before the bits end, since none is empty. -/
theorem symbols_begin {ps : List (List Bool × NodeIdx)} (hroot : isLeaf d d.root = false) (hok : symbolsOk d ps) :
    ∀ k < ps.length, (symbolBits (ps.take k)).length < (symbolBits ps).length := by
  intro k hk
  have hsplit : symbolBits ps = symbolBits (ps.take k) ++ symbolBits (ps.drop k) := by
    rw [symbolBits, symbolBits, symbolBits, ← List.flatMap_append, List.take_append_drop]
  have hrest := length_le_symbolBits hroot fun q hq => hok q (List.mem_of_mem_drop (i := k) hq)
  rw [List.length_drop] at hrest
  rw [hsplit, List.length_append]
  omega

theorem SameTree.root_node (h : SameTree n z d) (ht : treeShape z n) : nodeAt d d.root = nodeAt z z.root := by
  rw [h.root]
  exact h.nodes _ (root_lt ht)

/-- With a lone leaf every byte that has a code is the leaf's, and its code is one bit. -/
theorem lone_codes (hroot : isLeaf z z.root = true) (hcodes : exec .codes z = .next c) (hbs : ∀ b ∈ bs, hasCode c b = true) :
    bs = List.replicate (codedBits c bs).length (nodeAt z z.root).sym := by
  obtain ⟨honly, hcode⟩ := codes_lone hroot hcodes
  have hsame : ∀ b ∈ bs, b = (nodeAt z z.root).sym := fun b hb => ((honly b).1 (hbs b hb)).symm
  have hone : ∀ b ∈ bs, (codeString (ctGet c b)).length = 1 := fun b hb => by rw [hsame b hb, hcode]; rfl
  have hcount : (codedBits c bs).length = bs.length := by
    rw [codedBits, List.length_flatMap, List.map_congr_left hone]
    simp
  rw [hcount]
  exact List.eq_replicate_of_mem hsame

/-- Decoding the codes of `bs` gives `bs` back. -/
theorem decode_codes (hd : Free d) (h : SameTree n z d) (ht : treeShape z n) (hcodes : exec .codes z = .next c)
    (hbs : ∀ b ∈ bs, hasCode c b = true) (hbitcnt : d.bitcnt.toNat = (codedBits c bs).length)
    (hpay : payloadBegins d (codedBits c bs)) :
    ∃ v, exec .decode d = .next v ∧ v.phase = phaseCode .done ∧ v.snk = d.snk ++ bs := by
  have hnode := h.root_node ht
  have hleaf : isLeaf d d.root = isLeaf z z.root := congrArg Node.leaf hnode
  rcases root_cases ht with ⟨-, hroot⟩ | ⟨h2, hroot⟩
  · have hcopies := lone_codes hroot hcodes hbs
    rw [← hbitcnt, ← hnode] at hcopies
    exact ⟨_, exec_decode_loneLeaf (hleaf.trans hroot) fun k _ => hd.snk k, rfl, congrArg (d.snk ++ ·) hcopies.symm⟩
  · obtain ⟨ps, hok, hbits, hbytes⟩ := codes_symbols h ht (codes_follow ht h2 hcodes).2 hbs
    rw [← hbits] at hbitcnt hpay
    obtain ⟨j, hexec⟩ := exec_decode_symbols (hleaf.trans hroot) hok (hbitcnt ▸ symbols_begin (hleaf.trans hroot) hok)
      hbitcnt.le hpay (fun k _ => hd.src k) fun k _ => hd.snk k
    exact ⟨_, hexec, rfl, congrArg (d.snk ++ ·) hbytes⟩

end Decode

end Sys2Proof.Proofs

namespace Sys2Proof.Proofs

open Sys2Proof.Machine Sys2Proof.Safety

/-! # DECOMPRESS of a container, and the round trip (spec/45_container_codec.md R219) -/

section Decompress

variable {s t u x z c e : State} {bs : List Byte}

/-- DHDR of a container with no records ends the command (spec/45_container_codec.md R215). -/
theorem dhdr_done (hs : Free s) (hp : s.phase = phaseCode .dhdr) (hc : Carries s e) (hnchar : e.nchar = 0) (n : Nat) :
    ∃ t, runCommand (n + 1) s = some t ∧ t.phase = phaseCode .done ∧ t.snk = s.snk := by
  obtain ⟨hbytes, hlen⟩ := hc
  rw [emitImage, if_pos hnchar, hnchar, List.append_nil] at hbytes hlen
  obtain ⟨-, -, hzero, -⟩ := dhdrCases s
  have hexec := hzero (hs.src 0) hlen.ge (hbytes.leNat (by decide))
  exact ⟨_, runCommand_done hs rfl hp hexec rfl n, rfl, rfl⟩

/-- DHDR reads the number of records. -/
theorem dhdr_reaches (hs : Free s) (hp : s.phase = phaseCode .dhdr) (hc : Carries s e) (he : Encoded bs x z c e) :
    ∃ t, Reaches 1 s t ∧ t.phase = phaseCode .drecs ∧ t.nchar = e.nchar := by
  obtain ⟨hcount, -, -, -, hlen⟩ := hc.fields he.nchar he.nonempty
  have hfew := length_presentBytes_le e
  have hpos := List.length_pos_iff.2 he.nonempty
  have hnchar := he.nchar
  have hvalue : leNat (readBytes s.src 0 8) = e.nchar.toNat := hcount.leNat (by have := e.nchar.isLt; omega)
  obtain ⟨-, -, -, -, hrecords⟩ := dhdrCases s
  have hexec := hrecords (hs.src 0) (by omega) (by omega) (by omega)
  refine ⟨_, reaches_phase hs rfl hp hexec (j := .drecs) (by decide) rfl
    ⟨⟨rfl, rfl, rfl, rfl, rfl, rfl, rfl⟩, rfl, rfl, rfl, 1, List.drop_one.symm⟩, rfl, ?_⟩
  rw [hvalue, BitVec.ofNat_toNat, BitVec.setWidth_eq]

/-- DRECS loads the counts that EMIT wrote. -/
theorem drecs_reaches (hs : Free s) (hp : s.phase = phaseCode .drecs) (hc : Carries s e) (he : Encoded bs x z c e)
    (hnchar : s.nchar = e.nchar) : ∃ t, Reaches 1 s t ∧ t.phase = phaseCode .leaves ∧ t.nchar = e.nchar ∧ t.ft = e.ft := by
  obtain ⟨-, hrec, -, -, hlen⟩ := hc.fields he.nchar he.nonempty
  have hgood := records_good hrec
  rw [← he.nchar, ← hnchar] at hgood
  rw [← hnchar] at hlen
  obtain ⟨t, hload, htable, hexec⟩ := exec_drecs_good (fun k _ => hs.src k) (by omega) hgood
  rw [hnchar, he.nchar] at htable
  have hft := htable.ft_eq hrec
  obtain ⟨ft, reci, prev, rfl⟩ := hload.frame
  exact ⟨_, reaches_phase hs rfl hp hexec (j := .leaves) (by decide) rfl
    (.update (2 * s.nchar.toNat)), rfl, hnchar, hft⟩

/-- The bytes of PBUF that EMIT writes hold every bit of the codes, with the pad byte and without it
(spec/45_container_codec.md R211, R213). -/
theorem Packed.ceil8_le_elen (h : Packed bs c e) : ceil8 e.bitcnt.toNat ≤ elen e := by
  unfold elen
  split
  · rw [h.plen, ceil8]
    split <;> omega
  · exact le_rfl

/-- A payload that is the bytes of PBUF holds the bits of the codes. -/
theorem Packed.payloadBit (h : Packed bs c e) (hpay : Holds s.src s.poff.toNat (readBytes e.pbuf 0 (elen e))) {p : Nat}
    (hp : p < (codedBits c bs).length) : (codedBits c bs)[p] = payloadBitAt s p := by
  have hinside := h.ceil8_le_elen
  have hcover := le_ceil8 e.bitcnt.toNat
  have hbitcnt := h.bitcnt
  have hbyte : readByte s.src (s.poff.toNat + p / 8) = readByte e.pbuf (p / 8) := by
    rw [hpay.readByte (by rw [length_readBytes]; omega)]
    simp [readBytes_eq_map]
  rw [h.bit hp, payloadBitAt, hbyte]
  rfl

/-- DBITS finds the payload inside SRC, and it begins with the codes of the source. -/
theorem dbits_reaches (hs : Free s) (hp : s.phase = phaseCode .dbits) (hc : Carries s e) (he : Encoded bs x z c e)
    (hnchar : s.nchar = e.nchar) : ∃ t, Reaches 1 s t ∧ t.phase = phaseCode .decode ∧ t.node = s.node ∧ t.root = s.root ∧
      t.bitcnt.toNat = (codedBits c bs).length ∧ payloadBegins t (codedBits c bs) := by
  obtain ⟨-, -, hbits, hpay, hlen⟩ := hc.fields he.nchar he.nonempty
  have hbitcnt := he.packed.bitcnt
  have hinside := he.packed.ceil8_le_elen
  have hcover := le_ceil8 e.bitcnt.toNat
  have hlt := e.bitcnt.isLt
  have hvalue : leNat (readBytes s.src (8 + 9 * s.nchar.toNat) 8) = e.bitcnt.toNat := by
    rw [hnchar]
    exact hbits.leNat (by omega)
  obtain ⟨-, -, -, hgood⟩ := dbitsCases s
  obtain ⟨t, hexec, hframe, hcount, hpaylen, hpoff⟩ := hgood (hs.src 0) (by rw [hvalue, hnchar]; omega)
  rw [hvalue] at hcount
  rw [hcount] at hpaylen
  rw [hnchar] at hpoff
  have hphase : t.phase = phaseCode .decode := by rw [hframe]
  have hsrc : t.src = s.src ∧ t.srcLen = s.srcLen ∧ t.node = s.node ∧ t.root = s.root := by
    rw [hframe]
    exact ⟨rfl, rfl, rfl, rfl⟩
  obtain ⟨hsrc, hsrcLen, hnode, hroot⟩ := hsrc
  have hgo : GoesOn s t := by
    rw [hframe]
    exact ⟨⟨rfl, rfl, rfl, rfl, rfl, rfl, rfl⟩, rfl, rfl, rfl, 1, List.drop_one.symm⟩
  refine ⟨t, reaches_phase hs rfl hp hexec (j := .decode) (by decide) hphase hgo, hphase, hnode, hroot, hcount.trans hbitcnt,
    by rw [hsrcLen]; omega, by omega, by omega, fun p => he.packed.payloadBit (by rwa [hsrc, hpoff])⟩

/-- DECOMPRESS of a container that is not empty goes as far as DECODE, with the tree that the codes were taken from and a payload
that begins with the codes. -/
theorem decompress_reaches_decode (hs : Free s) (hp : s.phase = phaseCode .dhdr) (hm : s.mode = .decompress) (hc : Carries s e)
    (he : Encoded bs x z c e) : ∃ d, Reaches 5 s d ∧ d.phase = phaseCode .decode ∧ SameTree (presentBytes x).length z d ∧
      d.bitcnt.toNat = (codedBits c bs).length ∧ payloadBegins d (codedBits c bs) := by
  obtain ⟨r, hr, hphase, hnchar⟩ := dhdr_reaches hs hp hc he
  obtain ⟨y, hy, hphase, hnchar, hft⟩ := drecs_reaches (hr.goesOn.free hs) hphase (hr.goesOn.carries hc) he hnchar
  have hry := hr.trans hy
  have hmode : y.mode = .decompress := hry.goesOn.mode.trans hm
  have hpresent : presentBytes y = presentBytes e := by simp only [presentBytes, ftGet, hft]
  obtain ⟨b, hb, htreed, hphase⟩ := tree_reaches (hry.goesOn.free hs) hphase (hpresent ▸ he.nonempty)
  rw [hmode] at hphase
  have hrb := hry.trans hb
  have hnchar : b.nchar = e.nchar := by rw [htreed.nchar, hmode, if_neg (by decide), hnchar]
  obtain ⟨d, hd, hphase, hnode, hroot, hbits⟩ :=
    dbits_reaches (hrb.goesOn.free hs) hphase (hrb.goesOn.carries hc) he hnchar
  have hsame := he.treed.same htreed (he.ft.symm.trans hft.symm)
  have hentry (k : Nat) : entry d k = entry b k := by rw [entry, hnode, entry]
  exact ⟨d, hrb.trans hd, hphase, ⟨hroot.trans hsame.root, fun k hk => (hentry k).trans (hsame.nodes k hk)⟩, hbits⟩

/-- DECOMPRESS of a container ends in DONE with the bytes appended that COMPRESS encoded. -/
theorem decompress_done (hs : Free s) (hp : s.phase = phaseCode .dhdr) (hm : s.mode = .decompress) (hc : Carries s e)
    (he : Encodes bs e) : ∃ v, runCommand 7 s = some v ∧ v.phase = phaseCode .done ∧ v.snk = s.snk ++ bs := by
  obtain ⟨hnchar, rfl⟩ | ⟨x, z, c, he⟩ := he
  · obtain ⟨v, hrun, hdone, hsnk⟩ := dhdr_done hs hp hc hnchar 6
    exact ⟨v, hrun, hdone, hsnk.trans (List.append_nil _).symm⟩
  · obtain ⟨d, hreach, hphase, hsame, hbitcnt, hpay⟩ := decompress_reaches_decode hs hp hm hc he
    have hfree := hreach.goesOn.free hs
    obtain ⟨v, hexec, hdone, hsnk⟩ := decode_codes hfree hsame he.treed.shape he.codes he.packed.coded hbitcnt hpay
    have hrun := (hreach.runs 2).trans (runCommand_done hfree rfl hphase hexec hdone 1)
    exact ⟨v, hrun, hdone, hsnk.trans (congrArg (· ++ bs) hreach.goesOn.snk)⟩

end Decompress

/-- Settles O60: COMPRESS writes the counts and the codes that a tree gives the source, DECOMPRESS builds the same tree from the same
counts, and the codes are the paths of its leaves. -/
theorem roundTrip : Obligations.RoundTrip := by
  intro s hbusy hhost hsrc hsnk hcap
  obtain ⟨hfree, hrun⟩ := command_starts (m := .compress) (j := .hist) rfl hbusy hhost hsrc hsnk hcap
  obtain ⟨t, e, ht, hdone, hsink, he⟩ := compress_done hfree rfl rfl hcap
  refine ⟨t, emitImage e, (hrun 7).trans ht, hdone, hsink, fun u hbusy hhost hsrc hsnk hsource hcap => ?_⟩
  obtain ⟨hfree, hrun⟩ := command_starts (m := .decompress) (j := .dhdr) rfl hbusy hhost hsrc hsnk hcap
  obtain ⟨v, hv, hdone, hsink⟩ := decompress_done hfree rfl rfl (carries_of_sourceBytes hsource) he
  exact ⟨v, (hrun 7).trans hv, hdone, hsink⟩

end Sys2Proof.Proofs

namespace Sys2Proof.Proofs

open Sys2Proof.Machine Sys2Proof.Safety

/-! # The commands and the phase machine (spec/46_commands_fsm.md R231 to R239) -/

section Fsm

variable {i j : Instr} {m : Mode} {s t : State}

/-! ## The commands, accepted and ignored -/

/-- Every command is ignored while BUSY (spec/46_commands_fsm.md R231, R232, R235). -/
theorem exec_command_ignored (hi : formatOf i = .cmd) (hb : busy s = true) : exec i s = .next s := by
  cases i with
  | nop | cmdReserved3 => rfl
  | compress | decompress => exact (exec_command rfl).trans (if_pos hb)
  | _ => cases hi

/-- A command that is accepted, with a usable source within the capacity (spec/46_commands_fsm.md R233, R234). -/
theorem exec_command_starts (hc : commandStart i = some (m, j)) (hb : busy s = false) (hok : srcSample s 0 = true)
    (hcap : s.srcLen.toNat ≤ s.cfg.srcCap.toNat) :
    exec i s = .next (toPhase j { accept m s with srcOkNext := s.srcOkNext.tail }) := by
  have hgood : ¬ srcSample s 0 = false := by simp [hok]
  rw [exec_command hc, hb, startCommand_eq, if_neg hgood, if_neg (not_lt.2 hcap)]
  rfl

/-- The field `op` is the two low bits of the value written (spec/30_encoding.md R91, R98). -/
theorem cmdField_eq_mod (v : Nat) : cmdField v = BitVec.ofNat 2 (v % 4) :=
  BitVec.eq_of_toNat_eq (by simp [cmdField])

/-! ## Where the operations leave PHASE (spec/46_commands_fsm.md R236) -/

theorem exec_command_phase (hc : commandStart i = some (m, j)) (h : exec i s = .next t) :
    t.phase ∈ if busy s then [s.phase] else [phaseCode j, phaseCode .error] := by
  cases hb : busy s with
  | true =>
    obtain ⟨hcmd, -⟩ := commandStart_work hc
    obtain rfl := Host.Outcome.next.inj ((exec_command_ignored hcmd hb).symm.trans h)
    exact List.mem_singleton_self _
  | false =>
    refine List.mem_pair.2 ?_
    by_cases hfail : srcSample s 0 = false ∨ s.cfg.srcCap.toNat < s.srcLen.toNat
    · obtain rfl := Host.Outcome.next.inj ((exec_command_rejected hc hb hfail).symm.trans h)
      exact .inr rfl
    · obtain ⟨hok, hcap⟩ := not_or.1 hfail
      obtain rfl := Host.Outcome.next.inj
        ((exec_command_starts hc hb (Bool.eq_true_of_not_eq_false hok) (not_lt.1 hcap)).symm.trans h)
      exact .inl rfl

theorem exec_merge_phase (h : exec .merge s = .next t) : t.mode = s.mode ∧ t.phase = phaseCode (afterMerge t) := by
  constructor
  · obtain ⟨node, active, nnode, nact, root, rootValid, phase, rfl⟩ := exec_merge_frame h
    rfl
  · obtain ⟨u, r, -, -, rfl⟩ := exec_merge_cases h
    rfl

theorem exec_codes_phase (h : exec .codes s = .next t) : t.phase = phaseCode .pack := by
  refine Meets.of_finish (P := fun t => t.phase = phaseCode .pack) ((walkRoot_meets s).bind fun _ _ _ => ?_) h
  exact rfl

theorem exec_emit_phase (h : exec .emit s = .next t) : t.phase = phaseCode .done ∨ t.phase = phaseCode .error := by
  obtain ⟨symi, emi, hdone | ⟨k, -, habort⟩⟩ := exec_emit_cases s
  · obtain rfl := Host.Outcome.next.inj (hdone.symm.trans h)
    exact .inl rfl
  · obtain rfl := Host.Outcome.next.inj (habort.symm.trans h)
    exact .inr rfl

theorem exec_decode_phase (h : exec .decode s = .next t) : t.phase = phaseCode .done ∨ t.phase = phaseCode .error := by
  obtain ⟨-, hno⟩ | ⟨u, -, hdone | ⟨e, c, -, habort⟩⟩ := exec_decode_cases s
  · exact absurd h (hno t)
  · obtain rfl := Host.Outcome.next.inj (hdone.symm.trans h)
    exact .inl rfl
  · obtain rfl := Host.Outcome.next.inj (habort.symm.trans h)
    exact .inr rfl

end Fsm

/-- Settles O54, by all that a next state of each operation can be. -/
theorem phaseTable : Obligations.PhaseTable := by
  intro s t i h
  cases i with
  | nop | cmdReserved3 | idle | done | error =>
    cases h
    exact List.mem_singleton_self _
  | compress | decompress => exact exec_command_phase rfl h
  | hist => obtain ⟨ft, idx, next, rfl | rfl⟩ := exec_hist_cases h <;> simp
  | leaves =>
    obtain ⟨u, -, hu⟩ := exec_leaves s
    obtain rfl := Host.Outcome.next.inj (hu.symm.trans h)
    exact List.mem_singleton_self _
  | merge =>
    obtain ⟨hmode, hphase⟩ := exec_merge_phase h
    rw [hphase, afterMerge, hmode]
    cases s.mode <;> cases t.rootValid <;> exact List.mem_singleton_self _
  | codes => exact List.mem_singleton.2 (exec_codes_phase h)
  | pack => obtain ⟨k, -, rfl | rfl⟩ := exec_pack_cases h <;> simp
  | flush =>
    obtain rfl := Host.Outcome.next.inj ((exec_flush s).symm.trans h)
    exact List.mem_singleton_self _
  | emit => exact List.mem_pair.2 (exec_emit_phase h)
  | dhdr => obtain ⟨n, rfl⟩ | rfl | ⟨e, c, -, rfl⟩ := exec_dhdr_cases h <;> simp
  | drecs => obtain ⟨u, -, rfl | ⟨e, c, -, rfl⟩⟩ := exec_drecs_cases h <;> simp
  | dbits => obtain rfl | ⟨e, c, u, -, -, rfl⟩ := exec_dbits_cases h <;> simp
  | decode => exact List.mem_pair.2 (exec_decode_phase h)
  | phaseUnreachable14 | phaseUnreachable15 => cases h

/-- Settles O1: none of the five touches the state. -/
theorem noEffectOperations : Obligations.NoEffectOperations := fun _ => ⟨rfl, rfl, rfl, rfl, rfl⟩

/-- Settles O3: a write to register 0 runs the command of its two low bits, and while BUSY every command is ignored. -/
theorem cmdWriteAcceptedOrIgnored : Obligations.CmdWriteAcceptedOrIgnored := by
  intro s v rest hhost
  have hstep := step_command hhost
  refine ⟨fun hb => ?_, fun _ => by rw [hstep, cmdField_eq_mod]⟩
  exact hstep.trans (exec_command_ignored (formatOf_decodeCmd _) hb)

/-- Settles O4, by the start of a command, once in each mode. -/
theorem commandsStart : Obligations.CommandsStart := fun _ hb hok hcap =>
  ⟨exec_command_starts rfl hb hok hcap, exec_command_starts rfl hb hok hcap⟩

end Sys2Proof.Proofs
